-- ==== Sys2Proof/Word.lean ====
section
/-! DEFINITION. The word types of the yarchi CHIP-8 core (spec/00_scope.md R7, R8). -/

namespace Sys2Proof

/-- A general register, a timer or a byte of memory (10_state.md R20, R22, R28). -/
abbrev Byte := BitVec 8

/-- The index register, the program counter, a stack entry or an instruction word
(10_state.md R24 to R26, 30_encoding.md R90). -/
abbrev Word := BitVec 16

/-- The fields X, Y, N and the latched register number `wait_reg` (30_encoding.md R92, 10_state.md R33). -/
abbrev Nibble := BitVec 4

/-- The field NNN (30_encoding.md R92). -/
abbrev Addr12 := BitVec 12

end Sys2Proof
end

