-- ==== Sys2Proof/Syntax.lean ====
section
/-! DEFINITION. The instructions: one constructor per row of spec/opcode_table.json, named after the variants of
spec/30_encoding.md R94, each carrying exactly the fields its format has. -/

namespace Sys2Proof

/-- An operation variant with its operand fields (30_encoding.md R94). The row SYS is the variant `Unknown(w)`, which
also stands for every word that selects no row (30_encoding.md R97; log 8). -/
inductive Instr where
  /-- 00E0 -/
  | cls
  /-- 00EE -/
  | ret
  /-- 0NNN other than 00E0 and 00EE (the row SYS), and every word that selects no row. -/
  | unknown (w : Word)
  /-- 1NNN -/
  | jp (nnn : Addr12)
  /-- 2NNN -/
  | call (nnn : Addr12)
  /-- 3XNN -/
  | seImm (x : Nibble) (nn : Byte)
  /-- 4XNN -/
  | sneImm (x : Nibble) (nn : Byte)
  /-- 5XY0 -/
  | seReg (x y : Nibble)
  /-- 6XNN -/
  | ldImm (x : Nibble) (nn : Byte)
  /-- 7XNN -/
  | addImm (x : Nibble) (nn : Byte)
  /-- 8XY0 -/
  | ldReg (x y : Nibble)
  /-- 8XY1 -/
  | or (x y : Nibble)
  /-- 8XY2 -/
  | and (x y : Nibble)
  /-- 8XY3 -/
  | xor (x y : Nibble)
  /-- 8XY4 -/
  | addReg (x y : Nibble)
  /-- 8XY5 -/
  | sub (x y : Nibble)
  /-- 8XY6 -/
  | shr (x y : Nibble)
  /-- 8XY7 -/
  | subn (x y : Nibble)
  /-- 8XYE -/
  | shl (x y : Nibble)
  /-- 9XY0 -/
  | sneReg (x y : Nibble)
  /-- ANNN -/
  | ldI (nnn : Addr12)
  /-- BNNN -/
  | jpV0 (nnn : Addr12)
  /-- CXNN -/
  | rnd (x : Nibble) (nn : Byte)
  /-- DXYN -/
  | drw (x y n : Nibble)
  /-- EX9E -/
  | skp (x : Nibble)
  /-- EXA1 -/
  | sknp (x : Nibble)
  /-- FX07 -/
  | ldVxDt (x : Nibble)
  /-- FX0A -/
  | ldVxK (x : Nibble)
  /-- FX15 -/
  | ldDtVx (x : Nibble)
  /-- FX18 -/
  | ldStVx (x : Nibble)
  /-- FX1E -/
  | addIVx (x : Nibble)
  /-- FX29 -/
  | ldFVx (x : Nibble)
  /-- FX33 -/
  | ldBVx (x : Nibble)
  /-- FX55 -/
  | storeRegs (x : Nibble)
  /-- FX65 -/
  | loadRegs (x : Nibble)
  deriving DecidableEq, Repr

end Sys2Proof
end

