-- ==== Sys2Proof/Decode.lean ====
section
/-! DEFINITION. The decoder and the encoder (spec/30_encoding.md): field extraction (R92), the opcode map as a table
of masks (R95), the same map as a two-level switch (R96), the decoder over bytes, and the encoder. -/

namespace Sys2Proof

/-- `op = w[15:12]` (30_encoding.md R92). -/
def fieldOp (w : Word) : Nibble := w.extractLsb' 12 4

/-- `X = w[11:8]` (30_encoding.md R92). -/
def fieldX (w : Word) : Nibble := w.extractLsb' 8 4

/-- `Y = w[7:4]` (30_encoding.md R92). -/
def fieldY (w : Word) : Nibble := w.extractLsb' 4 4

/-- `N = w[3:0]` (30_encoding.md R92). -/
def fieldN (w : Word) : Nibble := w.extractLsb' 0 4

/-- `NN = w[7:0]` (30_encoding.md R92). -/
def fieldNN (w : Word) : Byte := w.extractLsb' 0 8

/-- `NNN = w[11:0]` (30_encoding.md R92). -/
def fieldNNN (w : Word) : Addr12 := w.extractLsb' 0 12

/-- One row of the opcode map: the row's name in spec/opcode_table.json, its mask and match, and the variant it gives. -/
structure OpcodeRow where
  mnemonic : String
  pattern : Word
  mask : Word
  build : Word → Instr

/-- A word selects a row when `w & mask == match` (30_encoding.md R95). -/
def OpcodeRow.selects (r : OpcodeRow) (w : Word) : Bool := w &&& r.mask == r.pattern

/-- The rows 0NNN to 7XNN of 30_encoding.md R95, in the table's order. -/
def opcodeRowsLow : List OpcodeRow :=
  [⟨"CLS", 0x00E0, 0xFFFF, fun _ => .cls⟩,
   ⟨"RET", 0x00EE, 0xFFFF, fun _ => .ret⟩,
   ⟨"SYS", 0x0000, 0xF000, fun w => .unknown w⟩,
   ⟨"JP", 0x1000, 0xF000, fun w => .jp (fieldNNN w)⟩,
   ⟨"CALL", 0x2000, 0xF000, fun w => .call (fieldNNN w)⟩,
   ⟨"SE_IMM", 0x3000, 0xF000, fun w => .seImm (fieldX w) (fieldNN w)⟩,
   ⟨"SNE_IMM", 0x4000, 0xF000, fun w => .sneImm (fieldX w) (fieldNN w)⟩,
   ⟨"SE_REG", 0x5000, 0xF00F, fun w => .seReg (fieldX w) (fieldY w)⟩,
   ⟨"LD_IMM", 0x6000, 0xF000, fun w => .ldImm (fieldX w) (fieldNN w)⟩,
   ⟨"ADD_IMM", 0x7000, 0xF000, fun w => .addImm (fieldX w) (fieldNN w)⟩]

/-- The rows 8XY0 to DXYN of 30_encoding.md R95, in the table's order. -/
def opcodeRowsMid : List OpcodeRow :=
  [⟨"LD_REG", 0x8000, 0xF00F, fun w => .ldReg (fieldX w) (fieldY w)⟩,
   ⟨"OR", 0x8001, 0xF00F, fun w => .or (fieldX w) (fieldY w)⟩,
   ⟨"AND", 0x8002, 0xF00F, fun w => .and (fieldX w) (fieldY w)⟩,
   ⟨"XOR", 0x8003, 0xF00F, fun w => .xor (fieldX w) (fieldY w)⟩,
   ⟨"ADD_REG", 0x8004, 0xF00F, fun w => .addReg (fieldX w) (fieldY w)⟩,
   ⟨"SUB", 0x8005, 0xF00F, fun w => .sub (fieldX w) (fieldY w)⟩,
   ⟨"SHR", 0x8006, 0xF00F, fun w => .shr (fieldX w) (fieldY w)⟩,
   ⟨"SUBN", 0x8007, 0xF00F, fun w => .subn (fieldX w) (fieldY w)⟩,
   ⟨"SHL", 0x800E, 0xF00F, fun w => .shl (fieldX w) (fieldY w)⟩,
   ⟨"SNE_REG", 0x9000, 0xF00F, fun w => .sneReg (fieldX w) (fieldY w)⟩,
   ⟨"LD_I", 0xA000, 0xF000, fun w => .ldI (fieldNNN w)⟩,
   ⟨"JP_V0", 0xB000, 0xF000, fun w => .jpV0 (fieldNNN w)⟩,
   ⟨"RND", 0xC000, 0xF000, fun w => .rnd (fieldX w) (fieldNN w)⟩,
   ⟨"DRW", 0xD000, 0xF000, fun w => .drw (fieldX w) (fieldY w) (fieldN w)⟩]

/-- The rows EX9E to FX65 of 30_encoding.md R95, in the table's order. -/
def opcodeRowsHigh : List OpcodeRow :=
  [⟨"SKP", 0xE09E, 0xF0FF, fun w => .skp (fieldX w)⟩,
   ⟨"SKNP", 0xE0A1, 0xF0FF, fun w => .sknp (fieldX w)⟩,
   ⟨"LD_VX_DT", 0xF007, 0xF0FF, fun w => .ldVxDt (fieldX w)⟩,
   ⟨"LD_VX_K", 0xF00A, 0xF0FF, fun w => .ldVxK (fieldX w)⟩,
   ⟨"LD_DT_VX", 0xF015, 0xF0FF, fun w => .ldDtVx (fieldX w)⟩,
   ⟨"LD_ST_VX", 0xF018, 0xF0FF, fun w => .ldStVx (fieldX w)⟩,
   ⟨"ADD_I_VX", 0xF01E, 0xF0FF, fun w => .addIVx (fieldX w)⟩,
   ⟨"LD_F_VX", 0xF029, 0xF0FF, fun w => .ldFVx (fieldX w)⟩,
   ⟨"LD_B_VX", 0xF033, 0xF0FF, fun w => .ldBVx (fieldX w)⟩,
   ⟨"LD_I_VX", 0xF055, 0xF0FF, fun w => .storeRegs (fieldX w)⟩,
   ⟨"LD_VX_I", 0xF065, 0xF0FF, fun w => .loadRegs (fieldX w)⟩]

/-- The opcode map (30_encoding.md R95). -/
def opcodeRows : List OpcodeRow := opcodeRowsLow ++ opcodeRowsMid ++ opcodeRowsHigh

/-- `Decode(w)` (30_encoding.md R94, R95, R97): the first row the word selects gives the variant, and a word that selects
no row is `Unknown(w)`. It reads no state, not even the mode flag (R103). -/
def decodeWord (w : Word) : Instr :=
  match opcodeRows.find? (·.selects w) with
  | some r => r.build w
  | none => .unknown w

/-- The second level of the switch for primary nibble 8 (30_encoding.md R96). -/
def decodeSwitch8 (w : Word) : Instr :=
  let x := fieldX w
  let y := fieldY w
  if fieldN w = 0x0 then .ldReg x y
  else if fieldN w = 0x1 then .or x y
  else if fieldN w = 0x2 then .and x y
  else if fieldN w = 0x3 then .xor x y
  else if fieldN w = 0x4 then .addReg x y
  else if fieldN w = 0x5 then .sub x y
  else if fieldN w = 0x6 then .shr x y
  else if fieldN w = 0x7 then .subn x y
  else if fieldN w = 0xE then .shl x y
  else .unknown w

/-- The second level of the switch for primary nibble 0xF (30_encoding.md R96). -/
def decodeSwitchF (w : Word) : Instr :=
  let x := fieldX w
  if fieldNN w = 0x07 then .ldVxDt x
  else if fieldNN w = 0x0A then .ldVxK x
  else if fieldNN w = 0x15 then .ldDtVx x
  else if fieldNN w = 0x18 then .ldStVx x
  else if fieldNN w = 0x1E then .addIVx x
  else if fieldNN w = 0x29 then .ldFVx x
  else if fieldNN w = 0x33 then .ldBVx x
  else if fieldNN w = 0x55 then .storeRegs x
  else if fieldNN w = 0x65 then .loadRegs x
  else .unknown w

/-- The opcode map by primary nibble (30_encoding.md R96): a second reading of the same map, kept beside `decodeWord` so
that the two can be proved to agree. The machine uses `decodeWord`. -/
def decodeSwitch (w : Word) : Instr :=
  let op := fieldOp w
  let x := fieldX w
  let y := fieldY w
  if op = 0x0 then
    if w = 0x00E0 then .cls else if w = 0x00EE then .ret else .unknown w
  else if op = 0x1 then .jp (fieldNNN w)
  else if op = 0x2 then .call (fieldNNN w)
  else if op = 0x3 then .seImm x (fieldNN w)
  else if op = 0x4 then .sneImm x (fieldNN w)
  else if op = 0x5 then if fieldN w = 0 then .seReg x y else .unknown w
  else if op = 0x6 then .ldImm x (fieldNN w)
  else if op = 0x7 then .addImm x (fieldNN w)
  else if op = 0x8 then decodeSwitch8 w
  else if op = 0x9 then if fieldN w = 0 then .sneReg x y else .unknown w
  else if op = 0xA then .ldI (fieldNNN w)
  else if op = 0xB then .jpV0 (fieldNNN w)
  else if op = 0xC then .rnd x (fieldNN w)
  else if op = 0xD then .drw x y (fieldN w)
  else if op = 0xE then
    if fieldNN w = 0x9E then .skp x else if fieldNN w = 0xA1 then .sknp x else .unknown w
  else decodeSwitchF w

/-- The word of two bytes, the first in the high half (20_memory.md R60). -/
def wordOfBytes (hi lo : Byte) : Word := hi ++ lo

/-- The two bytes of a word as memory holds them: the high byte at the lower address (20_memory.md R60). -/
def bytesOfWord (w : Word) : List Byte := [w.extractLsb' 8 8, w.extractLsb' 0 8]

/-- Why a list of bytes holds no instruction. -/
inductive DecodeError where
  /-- Fewer than the two bytes every instruction has (30_encoding.md R90). The machine never meets it: its fetch faults
  first (20_memory.md R60; log 9, safe). -/
  | truncated
  deriving DecidableEq, Repr

/-- The decoder over bytes: the instruction of the first two bytes and the bytes that follow it (30_encoding.md R90,
20_memory.md R60). -/
def decode : List Byte → Except DecodeError (Instr × List Byte)
  | hi :: lo :: rest => .ok (decodeWord (wordOfBytes hi lo), rest)
  | _ => .error .truncated

/-- The word of an instruction (30_encoding.md R91, R95). -/
def encode : Instr → Word
  | .cls => 0x00E0
  | .ret => 0x00EE
  | .unknown w => w
  | .jp nnn => 0x1#4 ++ nnn
  | .call nnn => 0x2#4 ++ nnn
  | .seImm x nn => 0x3#4 ++ x ++ nn
  | .sneImm x nn => 0x4#4 ++ x ++ nn
  | .seReg x y => 0x5#4 ++ x ++ y ++ 0x0#4
  | .ldImm x nn => 0x6#4 ++ x ++ nn
  | .addImm x nn => 0x7#4 ++ x ++ nn
  | .ldReg x y => 0x8#4 ++ x ++ y ++ 0x0#4
  | .or x y => 0x8#4 ++ x ++ y ++ 0x1#4
  | .and x y => 0x8#4 ++ x ++ y ++ 0x2#4
  | .xor x y => 0x8#4 ++ x ++ y ++ 0x3#4
  | .addReg x y => 0x8#4 ++ x ++ y ++ 0x4#4
  | .sub x y => 0x8#4 ++ x ++ y ++ 0x5#4
  | .shr x y => 0x8#4 ++ x ++ y ++ 0x6#4
  | .subn x y => 0x8#4 ++ x ++ y ++ 0x7#4
  | .shl x y => 0x8#4 ++ x ++ y ++ 0xE#4
  | .sneReg x y => 0x9#4 ++ x ++ y ++ 0x0#4
  | .ldI nnn => 0xA#4 ++ nnn
  | .jpV0 nnn => 0xB#4 ++ nnn
  | .rnd x nn => 0xC#4 ++ x ++ nn
  | .drw x y n => 0xD#4 ++ x ++ y ++ n
  | .skp x => 0xE#4 ++ x ++ 0x9E#8
  | .sknp x => 0xE#4 ++ x ++ 0xA1#8
  | .ldVxDt x => 0xF#4 ++ x ++ 0x07#8
  | .ldVxK x => 0xF#4 ++ x ++ 0x0A#8
  | .ldDtVx x => 0xF#4 ++ x ++ 0x15#8
  | .ldStVx x => 0xF#4 ++ x ++ 0x18#8
  | .addIVx x => 0xF#4 ++ x ++ 0x1E#8
  | .ldFVx x => 0xF#4 ++ x ++ 0x29#8
  | .ldBVx x => 0xF#4 ++ x ++ 0x33#8
  | .storeRegs x => 0xF#4 ++ x ++ 0x55#8
  | .loadRegs x => 0xF#4 ++ x ++ 0x65#8

/-- The bytes of an instruction in memory order. -/
def encodeBytes (i : Instr) : List Byte := bytesOfWord (encode i)

/-- The bytes of a table word: the low `nbits` bits of `w`, laid out as the hardware stores them (20_memory.md R60). -/
def tableWordBytes (nbits w : Nat) : List Byte := bytesOfWord (BitVec.ofNat 16 (w % 2 ^ nbits))

/-- What the decoder reads from a word numbered as spec/opcode_table.json numbers it. -/
def decodeTableWord (nbits w : Nat) : Option Instr :=
  match decode (tableWordBytes nbits w) with
  | .ok (i, _) => some i
  | .error _ => none

end Sys2Proof
end

