-- ==== Sys2Proof/Config.lean ====
section
/-! DEFINITION. What one machine of this hardware fixes: the parameters of spec/00_scope.md R6, the built-in font
of spec/10_state.md R23, and the open parameters and free values, which have no body (logs 2 and 3). -/

namespace Sys2Proof

/-- The mode flag's two values (10_state.md R31). -/
inductive Mode where
  /-- Legacy CHIP-8 semantics. -/
  | legacy
  /-- CHIP-48 semantics. -/
  | chip48
  deriving DecidableEq, Repr, Inhabited

namespace Config

/-- `MEM_SIZE` (00_scope.md R6). -/
@[simp] def memSize : Nat := 4096

/-- `PROG_BASE` (00_scope.md R6): where a program is loaded, and the first value of the program counter. -/
@[simp] def progBase : Nat := 0x200

/-- `MAX_ROM` (00_scope.md R6). -/
@[simp] def maxRom : Nat := memSize - progBase

/-- `FONT_BASE` (00_scope.md R6; 92_eei_decisions.md D2). -/
@[simp] def fontBase : Nat := 0x050

/-- `FONT_GLYPH_BYTES` (00_scope.md R6). -/
@[simp] def fontGlyphBytes : Nat := 5

/-- `TIMER_HZ` (00_scope.md R6). -/
@[simp] def timerHz : Nat := 60

/-- `SINGLE_STEP_COUNT` (00_scope.md R6; 90_conflicts.md C1). -/
@[simp] def singleStepCount : Nat := 4

/-- `FONT_DATA`, one list per hexadecimal digit 0 to F (10_state.md R23). -/
def fontGlyphs : List (List Byte) :=
  [[0xF0, 0x90, 0x90, 0x90, 0xF0],
   [0x20, 0x60, 0x20, 0x20, 0x70],
   [0xF0, 0x10, 0xF0, 0x80, 0xF0],
   [0xF0, 0x10, 0xF0, 0x10, 0xF0],
   [0x90, 0x90, 0xF0, 0x10, 0x10],
   [0xF0, 0x80, 0xF0, 0x10, 0xF0],
   [0xF0, 0x80, 0xF0, 0x90, 0xF0],
   [0xF0, 0x10, 0x20, 0x40, 0x40]] ++
  [[0xF0, 0x90, 0xF0, 0x90, 0xF0],
   [0xF0, 0x90, 0xF0, 0x10, 0xF0],
   [0xF0, 0x90, 0xF0, 0x90, 0x90],
   [0xE0, 0x90, 0xE0, 0x90, 0xE0],
   [0xF0, 0x80, 0x80, 0x80, 0xF0],
   [0xE0, 0x90, 0x90, 0x90, 0xE0],
   [0xF0, 0x80, 0xF0, 0x80, 0xF0],
   [0xF0, 0x80, 0xF0, 0x80, 0x80]]

/-- The 80 bytes of `FONT_DATA` in address order. -/
def fontData : List Byte := fontGlyphs.flatten

/-- What memory holds after `Construct` (10_state.md R46): the font in its range, 0x00 everywhere else. It is also
what an address that `State.mem` does not list reads as (log 4). -/
def resetByte (a : Nat) : Byte :=
  if fontBase ≤ a then fontData.getD (a - fontBase) 0 else 0

/-- `MODE` (00_scope.md R6): OPEN, an argument of `Construct`. A constant with no body, so that nothing can be proved
of its value (DESIGN CHOICE, log 3, safe). -/
opaque mode : Mode

/-- `CYCLES_PER_TICK` (00_scope.md R6; 10_state.md R35): OPEN, a positive integer (DESIGN CHOICE, log 3, safe). -/
opaque cyclesPerTick : PNat

/-- The time of construction (10_state.md R36, R46), in seconds (DESIGN CHOICE, logs 3 and 6, safe). -/
opaque constructionTime : Rat

/-- `rnd` (00_scope.md R6; 41_arithmetic_bitwise.md R164): the byte of each draw, a free value. The argument is the number
of draws made before (DESIGN CHOICE, log 2, safe). -/
opaque rnd : Nat → Byte

end Config

end Sys2Proof
end

