-- ==== Sys2Proof/Machine/State.lean ====
section
/-! DEFINITION. The state of the machine, as plain data: everything spec/10_state.md gives it, the events of
spec/00_scope.md R10, the reasons a step can stop, and the state after reset. -/

namespace Sys2Proof.Machine

/-- The Execution Engine's four states, the spec's `state` (10_state.md R32). -/
inductive EngineState where
  | running
  | paused
  | waitingForKey
  | halted
  deriving DecidableEq, Repr

/-- The kinds of `MemoryFault` (60_exceptions.md R252). -/
inductive MemoryFaultKind where
  /-- `pc > 0xFFE` at a fetch. -/
  | fetch
  /-- A data read above 0xFFF. -/
  | read
  /-- A program store above 0xFFF. -/
  | write
  /-- A program store below 0x200. -/
  | writeProtected
  deriving DecidableEq, Repr

/-- The fatal errors, which the error latch can hold (10_state.md R34; 60_exceptions.md R251 to R253). The address of a
`MemoryFault` is an unbounded natural number, as in 20_memory.md R62 (log 11). -/
inductive FatalError where
  /-- 2NNN with `sp = 16`. -/
  | stackOverflow
  /-- 00EE with `sp = 0`. -/
  | stackUnderflow
  /-- A memory access that the address map does not allow. -/
  | memoryFault (kind : MemoryFaultKind) (addr : Nat)
  deriving DecidableEq, Repr

/-- The events that change the core's state or read it (00_scope.md R10; 10_state.md R40). -/
inductive Event where
  /-- `Construct(mode, cpt)` at a time of construction (70_reset_and_hazards.md R290). -/
  | construct (mode : Mode) (cpt : PNat) (now : Rat)
  /-- `Reset` (70_reset_and_hazards.md R291). -/
  | reset
  /-- `Load(bytes)` (70_reset_and_hazards.md R292). -/
  | load (bytes : List Byte)
  /-- `Step` (40_execution_cycle.md R120). Its random byte is the free value of log 2. -/
  | step
  /-- `Pause` (40_execution_cycle.md R130). -/
  | pause
  /-- `Resume` (40_execution_cycle.md R131). -/
  | resume
  /-- `SingleStep` (40_execution_cycle.md R132). -/
  | singleStep
  /-- `Tick` (60_exceptions.md R265). -/
  | tick
  /-- `tick_if_due(now)`, `now` in seconds (60_exceptions.md R266; log 6). -/
  | tickIfDue (now : Rat)
  /-- `KeyWrite(k16)` (10_state.md R30). -/
  | keyWrite (k16 : Word)
  /-- `DumpState` (10_state.md R45). -/
  | dumpState
  deriving DecidableEq, Repr

/-- The listed bytes of memory, by rising address; an address that is not listed reads as `Config.resetByte` (log 4). The
canonical form is `Memory.wf`. -/
abbrev Memory := List Host.Cell

/-- The Display Buffer: 32 rows of 64 pixels, row 0 at the top, column 0 at the left (10_state.md R29). -/
abbrev Display := Vector (Vector Bool 64) 32

/-- The state of the core. The last two fields are the model's own. -/
structure State where
  /-- `V[0]` to `V[15]` (10_state.md R20). -/
  V : Vector Byte 16
  /-- `I` (10_state.md R24). -/
  I : Word
  /-- `pc` (10_state.md R25). -/
  pc : Word
  /-- `stack[0]` to `stack[15]` (10_state.md R26). -/
  stack : Vector Word 16
  /-- `sp`, 0 to 16 (10_state.md R27; log 11). -/
  sp : Fin 17
  /-- `dt` (10_state.md R28). -/
  dt : Byte
  /-- `st` (10_state.md R28). -/
  st : Byte
  /-- `disp` (10_state.md R29). -/
  disp : Display
  /-- `mem` (10_state.md R22). -/
  mem : Memory
  /-- `keys`, bit `k` for key `k` (10_state.md R30). -/
  keys : Word
  /-- `mode` (10_state.md R31). -/
  mode : Mode
  /-- The spec's `state` (10_state.md R32). -/
  engine : EngineState
  /-- `wait_reg` (10_state.md R33). -/
  waitReg : Nibble
  /-- `err`, where `none` is the spec's `None` (10_state.md R34). -/
  err : Option FatalError
  /-- `cpt` (10_state.md R35). -/
  cpt : PNat
  /-- `last`, in seconds (10_state.md R36; log 6). -/
  last : Rat
  /-- The model's own: how many random bytes have been drawn (log 2). -/
  draws : Nat
  /-- The model's own: the events the environment issues before it goes on with plain `Step`s (log 1). -/
  inputs : List Event
  deriving DecidableEq, Repr

/-- The reasons for which a step stops with a fault: none. Every error the spec describes is entered as a next state
(60_exceptions.md R250, R254, R255; log 5), so nothing raises a fault. Safe. -/
inductive Fault where
  deriving DecidableEq, Repr

/-- The reasons for which a step is refused. -/
inductive Refusal where
  /-- An instruction that has no meaning yet; raised by `exec` in that instruction's arm, by name. No arm raises it now.
  Safe: the model stops where the hardware goes on. -/
  | notModelled (mnemonic : String)
  deriving DecidableEq, Repr

/-- The outcome of a step of this machine. -/
abbrev Result := Host.Outcome State Fault Refusal

/-- The state after `Construct` (10_state.md R46). The arguments of `Construct` are constants without a value (log 3); no
byte of memory is listed, so memory is the zero fill and the font (log 4); `draws` and `inputs` are the model's own
(DESIGN CHOICE, logs 1 and 2). -/
def State.reset : State where
  V := Vector.replicate 16 0
  I := 0
  pc := 0x200
  stack := Vector.replicate 16 0
  sp := 0
  dt := 0
  st := 0
  disp := Vector.replicate 32 (Vector.replicate 64 false)
  mem := []
  keys := 0
  mode := Config.mode
  engine := .running
  waitReg := 0
  err := none
  cpt := Config.cyclesPerTick
  last := Config.constructionTime
  draws := 0
  inputs := []

end Sys2Proof.Machine
end

