-- ==== Sys2Proof/Machine/Ops.lean ====
section
/-! DEFINITION. The named operations over memory, registers, the program counter and the stack, the entry to `Halted` and
the `Reset` event that leaves it (spec/20_memory.md, spec/43_memory_index.md R200, spec/60_exceptions.md R250). -/

namespace Sys2Proof.Machine

/-- The canonical form of memory: addresses strictly rising, all inside the address space, and no byte listed that an
unlisted address reads as (log 4). -/
abbrev Memory.wf (m : Memory) : Prop :=
  m.Pairwise (fun c d => c.1 < d.1) ∧ ∀ c ∈ m, c.1 < Config.memSize ∧ c.2 ≠ Config.resetByte c.1

/-- The byte at an address (20_memory.md R62, after its check). -/
def Memory.read : Memory → Nat → Byte
  | [], a => Config.resetByte a
  | (k, v) :: rest, a => if k = a then v else Memory.read rest a

/-- A cell put at the front of a memory, unless it says what an unlisted address reads as anyway. -/
def Memory.cons (a : Nat) (v : Byte) (m : Memory) : Memory :=
  if v = Config.resetByte a then m else (a, v) :: m

/-- The write of one byte, which keeps the canonical form (20_memory.md R63, after its checks). -/
def Memory.write : Memory → Nat → Byte → Memory
  | [], a, v => Memory.cons a v []
  | (k, u) :: rest, a, v =>
    if a < k then Memory.cons a v ((k, u) :: rest)
    else if a = k then Memory.cons a v rest
    else (k, u) :: Memory.write rest a v

/-- Bytes written at ascending addresses (20_memory.md R64). -/
def Memory.writeBytes : Memory → Nat → List Byte → Memory
  | m, _, [] => m
  | m, a, b :: bs => Memory.writeBytes (Memory.write m a b) (a + 1) bs

/-- The `n` bytes at ascending addresses from `a` (20_memory.md R64). -/
def Memory.readBytes (m : Memory) (a : Nat) : Nat → List Byte
  | 0 => []
  | n + 1 => Memory.read m a :: Memory.readBytes m (a + 1) n

/-- `I <- v` (00_scope.md R9). -/
def State.setI (s : State) (v : Word) : State := { s with I := v }

/-- All 16 general registers written at once, by an instruction that loads several (43_memory_index.md R206). -/
def State.setRegs (s : State) (V : Vector Byte 16) : State := { s with V := V }

/-- Memory replaced by what the stores of one instruction make of it (20_memory.md R76). -/
def State.setMem (s : State) (m : Memory) : State := { s with mem := m }

/-- The Display Buffer replaced by what one instruction makes of it (44_display.md R222). -/
def State.setDisp (s : State) (d : Display) : State := { s with disp := d }

/-- `dt <- v` (45_keypad_timers.md R234). -/
def State.setDt (s : State) (v : Byte) : State := { s with dt := v }

/-- `st <- v` (45_keypad_timers.md R235). -/
def State.setSt (s : State) (v : Byte) : State := { s with st := v }

/-- `state <- e` (40_execution_cycle.md R133). -/
def State.setEngine (s : State) (e : EngineState) : State := { s with engine := e }

/-- `wait_reg <- x; state <- WaitingForKey` (40_execution_cycle.md R126). -/
def State.enterWait (s : State) (x : Nibble) : State := { s with waitReg := x, engine := .waitingForKey }

/-- One more random byte drawn (log 2). -/
def State.countDraw (s : State) : State := { s with draws := s.draws + 1 }

/-- `MemRead(addr, 1)` (20_memory.md R62). -/
def State.memRead (s : State) (addr : Nat) : Except FatalError Byte :=
  if addr > 0xFFF then .error (.memoryFault .read addr) else .ok (Memory.read s.mem addr)

/-- `MemWrite(addr, 1, v)`, the store a program instruction makes (20_memory.md R63). -/
def State.memWrite (s : State) (addr : Nat) (v : Byte) : Except FatalError State :=
  if addr > 0xFFF then .error (.memoryFault .write addr)
  else if addr < 0x200 then .error (.memoryFault .writeProtected addr)
  else .ok (s.setMem (Memory.write s.mem addr v))

/-- `MemRead` at each of `n` ascending addresses, up to the first that faults. -/
def State.memReadEach (s : State) (addr : Nat) : Nat → Except FatalError (List Byte)
  | 0 => .ok []
  | n + 1 =>
    match s.memRead addr with
    | .error e => .error e
    | .ok b =>
      match State.memReadEach s (addr + 1) n with
      | .error e => .error e
      | .ok bs => .ok (b :: bs)

/-- `MemWrite` of each byte at ascending addresses, up to the first that faults. -/
def State.memWriteEach (s : State) (addr : Nat) : List Byte → Except FatalError State
  | [] => .ok s
  | b :: bs =>
    match s.memWrite addr b with
    | .error e => .error e
    | .ok t => State.memWriteEach t (addr + 1) bs

/-- `CheckRead(base, len)`: the fault it raises, if any (43_memory_index.md R200). -/
def checkRead (base len : Nat) : Option FatalError :=
  if 0 < len ∧ base + len - 1 > 0xFFF then some (.memoryFault .read (max base 0x1000)) else none

/-- `CheckWrite(base, len)`: the fault it raises, if any (43_memory_index.md R200). -/
def checkWrite (base len : Nat) : Option FatalError :=
  if base < 0x200 then some (.memoryFault .writeProtected base)
  else if base + len - 1 > 0xFFF then some (.memoryFault .write (max base 0x1000))
  else none

/-- `V[i]` (00_scope.md R9). -/
def State.getV (s : State) (x : Nibble) : Byte := s.V[x.toNat]'x.isLt

/-- `V[i] <- v` (00_scope.md R9; 10_state.md R20: no register is hard-wired). -/
def State.setV (s : State) (x : Nibble) (v : Byte) : State := { s with V := s.V.set x.toNat v x.isLt }

/-- `V[i] <- b_i` for consecutive registers from number `i` (43_memory_index.md R206). -/
def setRegisters (V : Vector Byte 16) (i : Nat) : List Byte → Vector Byte 16
  | [] => V
  | b :: bs => setRegisters (V.setIfInBounds i b) (i + 1) bs

/-- `V[i]`, `V[i + 1]`, ...: `n` consecutive registers from number `i` (43_memory_index.md R205). -/
def State.registerBytes (s : State) (i : Nat) : Nat → List Byte
  | 0 => []
  | n + 1 => s.getV (BitVec.ofNat 4 i) :: State.registerBytes s (i + 1) n

/-- The default advance, `pc <- pc + 2` (40_execution_cycle.md R124). -/
def State.advance (s : State) : State := { s with pc := s.pc + 2 }

/-- `pc <- pc + 4 if the condition holds, else pc + 2` (40_execution_cycle.md R125). -/
def State.skipIf (s : State) (c : Bool) : State := { s with pc := if c then s.pc + 4 else s.pc + 2 }

/-- `pc <- target` (40_execution_cycle.md R125). -/
def State.jump (s : State) (target : Word) : State := { s with pc := target }

/-- `stack[k]` (10_state.md R26). -/
def State.stackAt (s : State) (k : Fin 16) : Word := s.stack[k.val]'k.isLt

/-- A push below the limit: `stack[sp] <- v`, then `sp <- sp + 1` (10_state.md R27). -/
def State.push (s : State) (v : Word) (h : s.sp.val < 16) : State :=
  { s with stack := s.stack.set s.sp.val v h, sp := ⟨s.sp.val + 1, Nat.succ_lt_succ h⟩ }

/-- The number of the top entry of a stack that is not empty (10_state.md R27). -/
def State.topIndex (s : State) (h : 0 < s.sp.val) : Fin 16 :=
  ⟨s.sp.val - 1, Nat.lt_of_lt_of_le (Nat.sub_lt h Nat.one_pos) (Nat.le_of_lt_succ s.sp.isLt)⟩

/-- The stack pointer after a pop: `sp <- sp - 1`. The popped entry keeps its value (10_state.md R27). -/
def State.drop (s : State) : State := { s with sp := ⟨s.sp.val - 1, Nat.lt_of_le_of_lt (Nat.sub_le _ _) s.sp.isLt⟩ }

/-- The state a fatal error leaves: `err <- E`, `state <- Halted`, and nothing else (60_exceptions.md R250). -/
def State.halt (s : State) (e : FatalError) : State := { s with err := some e, engine := .halted }

/-- `raise E`: entry to `Halted`, a next state (60_exceptions.md R250; log 5). -/
def raise (e : FatalError) (s : State) : Result := .next (s.halt e)

/-- An instruction with one check: the check's fault is raised before anything has changed, else the instruction has its
effect (20_memory.md R76; 60_exceptions.md R256). -/
def guarded (check : Option FatalError) (s t : State) : Result :=
  match check with
  | some e => raise e s
  | none => .next t

/-- The `Reset` event, the only way out of `Halted`: there is no return from an error (60_exceptions.md R257;
70_reset_and_hazards.md R291). -/
def State.applyReset (s : State) : State :=
  { s with
    V := Vector.replicate 16 0
    I := 0
    pc := 0x200
    sp := 0
    stack := Vector.replicate 16 0
    mem := Memory.writeBytes s.mem Config.fontBase Config.fontData
    disp := Vector.replicate 32 (Vector.replicate 64 false)
    dt := 0
    st := 0
    engine := .running
    err := none
    waitReg := 0 }

/-- `Fetch()`: two bytes, big-endian, no wrap (20_memory.md R60, R61). -/
def State.fetch (s : State) : Except FatalError Word :=
  if s.pc.toNat > 0xFFE then .error (.memoryFault .fetch s.pc.toNat)
  else .ok (wordOfBytes (Memory.read s.mem s.pc.toNat) (Memory.read s.mem (s.pc.toNat + 1)))

end Sys2Proof.Machine
end

