-- ==== Sys2Proof/Machine/Flags.lean ====
section
/-! DEFINITION. The flag computations: VF is the only flag (spec/10_state.md R39), a whole register that ends as 0 or 1. -/

namespace Sys2Proof.Machine

/-- The number of VF (10_state.md R21). -/
def regF : Nibble := 0xF

/-- A flag as the value of VF: 0 or 1 (10_state.md R21). -/
def flagByte (b : Bool) : Byte := if b then 1 else 0

/-- `1 if V[X] + V[Y] > 255 else 0` (41_arithmetic_bitwise.md R158). -/
def carryFlag (a b : Byte) : Byte := flagByte (decide (a.toNat + b.toNat > 255))

/-- `1 if minuend >= subtrahend else 0` (41_arithmetic_bitwise.md R159, R161). -/
def notBorrowFlag (minuend subtrahend : Byte) : Byte := flagByte (decide (minuend.toNat ≥ subtrahend.toNat))

/-- Bit 0 of the operand of a right shift (41_arithmetic_bitwise.md R160). -/
def shiftOutRight (v : Byte) : Byte := flagByte (v.getLsbD 0)

/-- Bit 7 of the operand of a left shift (41_arithmetic_bitwise.md R162). -/
def shiftOutLeft (v : Byte) : Byte := flagByte (v.getLsbD 7)

/-- The result is written first and the flag after it, so that with X = 0xF the flag stays (41_arithmetic_bitwise.md R157). -/
def State.setResultAndFlag (s : State) (x : Nibble) (result flag : Byte) : State := (s.setV x result).setV regF flag

end Sys2Proof.Machine
end

