-- ==== Sys2Proof/Machine/Operands.lean ====
section
/-! DEFINITION. The operand forms: immediates widened, the operand of a shift, the key number, the glyph address, the
address in `I`, decimal digits, sprite coordinates and the least pressed key. -/

namespace Sys2Proof.Machine

/-- `zext_16(NNN)` (30_encoding.md R93). -/
def zext12 (nnn : Addr12) : Word := nnn.setWidth 16

/-- `zext_16` of a byte (00_scope.md R9). -/
def zext8 (v : Byte) : Word := v.setWidth 16

/-- The operand of 8XY6 and 8XYE: `V[Y]` in legacy mode, `V[X]` in CHIP-48 mode (41_arithmetic_bitwise.md R160, R162). -/
def State.shiftOperand (s : State) (x y : Nibble) : Byte :=
  match s.mode with
  | .legacy => s.getV y
  | .chip48 => s.getV x

/-- The effective base address of a data access: `I`, as an unbounded integer (43_memory_index.md R200). -/
def State.baseAddr (s : State) : Nat := s.I.toNat

/-- The index register after FX55 and FX65: `I + X + 1` in legacy mode, unchanged in CHIP-48 mode
(43_memory_index.md R205, R206). -/
def State.indexAfter (s : State) (x : Nibble) : Word :=
  match s.mode with
  | .legacy => s.I + BitVec.ofNat 16 (x.toNat + 1)
  | .chip48 => s.I

/-- The low nibble of a register: the key number of EX9E and EXA1 and the digit of FX29 (45_keypad_timers.md R236,
43_memory_index.md R203). -/
def lowNibble (v : Byte) : Nibble := v.extractLsb' 0 4

/-- `keys[k]` (10_state.md R30). -/
def State.keyDown (s : State) (k : Nibble) : Bool := s.keys.getLsbD k.toNat

/-- `FONT_BASE + FONT_GLYPH_BYTES * d` (43_memory_index.md R203). -/
def glyphAddr (d : Nibble) : Word := BitVec.ofNat 16 (Config.fontBase + Config.fontGlyphBytes * d.toNat)

/-- The hundreds, tens and ones of a byte (43_memory_index.md R204). -/
def decimalDigits (v : Byte) : List Byte :=
  [BitVec.ofNat 8 (v.toNat / 100), BitVec.ofNat 8 (v.toNat / 10 % 10), BitVec.ofNat 8 (v.toNat % 10)]

/-- A display column: the sum modulo 64 (44_display.md R221). -/
def column (v : Byte) (c : Nat) : Fin 64 := Fin.ofNat 64 (v.toNat % 64 + c)

/-- A display row: the sum modulo 32 (44_display.md R221). -/
def row (v : Byte) (r : Nat) : Fin 32 := Fin.ofNat 32 (v.toNat % 32 + r)

/-- The least number from `k` on, below `k + n`, whose latch bit is 1. -/
def leastKeyFrom (keys : Word) (k : Nat) : Nat → Option Nibble
  | 0 => none
  | n + 1 => if keys.getLsbD k then some (BitVec.ofNat 4 k) else leastKeyFrom keys (k + 1) n

/-- The least `k` in 0..15 with `keys[k] = 1` (40_execution_cycle.md R127). -/
def leastKey (keys : Word) : Option Nibble := leastKeyFrom keys 0 16

end Sys2Proof.Machine
end

