-- ==== Sys2Proof/Machine/Arith.lean ====
section
/-! DEFINITION. Meanings of the arithmetic, bitwise, shift, load and random instructions
(spec/41_arithmetic_bitwise.md). -/

namespace Sys2Proof.Machine

/-- 6XNN `LD Vx, NN` (41_arithmetic_bitwise.md R151). -/
def execLdImm (x : Nibble) (nn : Byte) (s : State) : Result := .next (s.setV x nn).advance

/-- 7XNN `ADD Vx, NN`, which leaves VF alone as a flag (41_arithmetic_bitwise.md R152). -/
def execAddImm (x : Nibble) (nn : Byte) (s : State) : Result := .next (s.setV x (s.getV x + nn)).advance

/-- 8XY0 `LD Vx, Vy` (41_arithmetic_bitwise.md R153). -/
def execLdReg (x y : Nibble) (s : State) : Result := .next (s.setV x (s.getV y)).advance

/-- 8XY1 `OR Vx, Vy` (41_arithmetic_bitwise.md R154). -/
def execOr (x y : Nibble) (s : State) : Result := .next (s.setV x (s.getV x ||| s.getV y)).advance

/-- 8XY2 `AND Vx, Vy` (41_arithmetic_bitwise.md R155). -/
def execAnd (x y : Nibble) (s : State) : Result := .next (s.setV x (s.getV x &&& s.getV y)).advance

/-- 8XY3 `XOR Vx, Vy` (41_arithmetic_bitwise.md R156). -/
def execXor (x y : Nibble) (s : State) : Result := .next (s.setV x (s.getV x ^^^ s.getV y)).advance

/-- 8XY4 `ADD Vx, Vy` (41_arithmetic_bitwise.md R158). -/
def execAddReg (x y : Nibble) (s : State) : Result :=
  let a := s.getV x
  let b := s.getV y
  .next (s.setResultAndFlag x (BitVec.ofNat 8 (a.toNat + b.toNat)) (carryFlag a b)).advance

/-- 8XY5 `SUB Vx, Vy` (41_arithmetic_bitwise.md R159). -/
def execSub (x y : Nibble) (s : State) : Result :=
  let a := s.getV x
  let b := s.getV y
  .next (s.setResultAndFlag x (a - b) (notBorrowFlag a b)).advance

/-- 8XY6 `SHR Vx, Vy` (41_arithmetic_bitwise.md R160). -/
def execShr (x y : Nibble) (s : State) : Result :=
  let v := s.shiftOperand x y
  .next (s.setResultAndFlag x (v >>> 1) (shiftOutRight v)).advance

/-- 8XY7 `SUBN Vx, Vy` (41_arithmetic_bitwise.md R161). -/
def execSubn (x y : Nibble) (s : State) : Result :=
  let a := s.getV x
  let b := s.getV y
  .next (s.setResultAndFlag x (b - a) (notBorrowFlag b a)).advance

/-- 8XYE `SHL Vx, Vy` (41_arithmetic_bitwise.md R162). -/
def execShl (x y : Nibble) (s : State) : Result :=
  let v := s.shiftOperand x y
  .next (s.setResultAndFlag x (v <<< 1) (shiftOutLeft v)).advance

/-- `V[X] <- rnd & NN` for a given random byte (41_arithmetic_bitwise.md R164). -/
def State.drawInto (s : State) (byte : Byte) (x : Nibble) (nn : Byte) : State := (s.setV x (byte &&& nn)).advance

/-- CXNN `RND Vx, NN`: the random byte is a free value, fresh at each execution (41_arithmetic_bitwise.md R164; log 2). -/
def execRnd (x : Nibble) (nn : Byte) (s : State) : Result :=
  .next (s.drawInto (Config.rnd s.draws) x nn).countDraw

end Sys2Proof.Machine
end

