-- ==== Sys2Proof/Machine/Control.lean ====
section
/-! DEFINITION. Meanings of the control transfer instructions (spec/42_control_flow.md) and of unknown words
(spec/60_exceptions.md R254). In each of them `s.pc` is the address of the instruction itself
(spec/40_execution_cycle.md R122). -/

namespace Sys2Proof.Machine

/-- 0NNN `SYS NNN` and every other unknown word: a no-op that advances the program counter; the error is in the step report
only (42_control_flow.md R180; 60_exceptions.md R254; log 7). -/
def execUnknown (_w : Word) (s : State) : Result := .next s.advance

/-- 00EE `RET` (42_control_flow.md R181). -/
def execRet (s : State) : Result :=
  if h : 0 < s.sp.val then .next (s.drop.jump (s.stackAt (s.topIndex h))) else raise .stackUnderflow s

/-- 2NNN `CALL NNN` (42_control_flow.md R182). -/
def execCall (nnn : Addr12) (s : State) : Result :=
  if h : s.sp.val < 16 then .next ((s.push (s.pc + 2) h).jump (zext12 nnn)) else raise .stackOverflow s

/-- 1NNN `JP NNN` (42_control_flow.md R183). -/
def execJp (nnn : Addr12) (s : State) : Result := .next (s.jump (zext12 nnn))

/-- BNNN `JP V0, NNN`, with `V[0]` in both modes (42_control_flow.md R184). -/
def execJpV0 (nnn : Addr12) (s : State) : Result := .next (s.jump (zext12 nnn + zext8 (s.getV 0)))

/-- 3XNN `SE Vx, NN` (42_control_flow.md R185). -/
def execSeImm (x : Nibble) (nn : Byte) (s : State) : Result := .next (s.skipIf (s.getV x == nn))

/-- 4XNN `SNE Vx, NN` (42_control_flow.md R186). -/
def execSneImm (x : Nibble) (nn : Byte) (s : State) : Result := .next (s.skipIf (s.getV x != nn))

/-- 5XY0 `SE Vx, Vy` (42_control_flow.md R187). -/
def execSeReg (x y : Nibble) (s : State) : Result := .next (s.skipIf (s.getV x == s.getV y))

/-- 9XY0 `SNE Vx, Vy` (42_control_flow.md R188). -/
def execSneReg (x y : Nibble) (s : State) : Result := .next (s.skipIf (s.getV x != s.getV y))

end Sys2Proof.Machine
end

