-- ==== Sys2Proof/Machine/Display.lean ====
section
/-! DEFINITION. The Display Buffer and the meanings of its instructions (spec/44_display.md). -/

namespace Sys2Proof.Machine

/-- `disp[y][x]` (10_state.md R29). -/
def Display.pixel (d : Display) (x : Fin 64) (y : Fin 32) : Bool := (d[y.val]'y.isLt)[x.val]'x.isLt

/-- `disp[y][x] <- b` (10_state.md R29). -/
def Display.setPixel (d : Display) (x : Fin 64) (y : Fin 32) (b : Bool) : Display :=
  d.set y.val ((d[y.val]'y.isLt).set x.val b x.isLt) y.isLt

/-- The buffer with every pixel 0 (44_display.md R220). -/
def Display.clear : Display := Vector.replicate 32 (Vector.replicate 64 false)

/-- The buffer in the course of a draw, and whether some pixel has gone from 1 to 0 (the spec's `hit`). -/
structure Canvas where
  disp : Display
  hit : Bool
  deriving DecidableEq, Repr

/-- One sprite bit: a 1 inverts its pixel and counts as a hit if the pixel was 1, a 0 changes nothing
(44_display.md R221). -/
def Canvas.draw (k : Canvas) (bit : Bool) (x : Fin 64) (y : Fin 32) : Canvas :=
  if bit then
    { disp := Display.setPixel k.disp x y (!(Display.pixel k.disp x y)), hit := k.hit || Display.pixel k.disp x y }
  else k

/-- The sprite bits of one byte from column `c` on, `n` of them; bit 7 is column 0 (44_display.md R221). -/
def Canvas.drawRow (vx : Byte) (y : Fin 32) (b : Byte) (c : Nat) : Nat → Canvas → Canvas
  | 0, k => k
  | n + 1, k => Canvas.drawRow vx y b (c + 1) n (k.draw (b.getLsbD (7 - c)) (column vx c) y)

/-- The sprite rows from number `r` on (44_display.md R221). -/
def Canvas.drawRows (vx vy : Byte) (r : Nat) : List Byte → Canvas → Canvas
  | [], k => k
  | b :: bs, k => Canvas.drawRows vx vy (r + 1) bs (Canvas.drawRow vx (row vy r) b 0 8 k)

/-- The draw of a sprite at the position of two register values (44_display.md R221). -/
def Display.drawSprite (d : Display) (vx vy : Byte) (sprite : List Byte) : Canvas :=
  Canvas.drawRows vx vy 0 sprite ⟨d, false⟩

/-- 00E0 `CLS` (44_display.md R220). -/
def execCls (s : State) : Result := .next (s.setDisp Display.clear).advance

/-- DXYN `DRW Vx, Vy, N`: the coordinates are read before VF is written, and VF is written also when `N = 0`
(44_display.md R221). -/
def execDrw (x y n : Nibble) (s : State) : Result :=
  let k := Display.drawSprite s.disp (s.getV x) (s.getV y) (Memory.readBytes s.mem s.baseAddr n.toNat)
  guarded (checkRead s.baseAddr n.toNat) s ((s.setDisp k.disp).setV regF (flagByte k.hit)).advance

end Sys2Proof.Machine
end

