-- ==== Sys2Proof/Machine/KeypadTimers.lean ====
section
/-! DEFINITION. Meanings of the keypad and timer instructions (spec/45_keypad_timers.md). -/

namespace Sys2Proof.Machine

/-- EX9E `SKP Vx` (45_keypad_timers.md R230, R236). -/
def execSkp (x : Nibble) (s : State) : Result := .next (s.skipIf (s.keyDown (lowNibble (s.getV x))))

/-- EXA1 `SKNP Vx` (45_keypad_timers.md R231, R236). -/
def execSknp (x : Nibble) (s : State) : Result := .next (s.skipIf (!(s.keyDown (lowNibble (s.getV x)))))

/-- FX0A `LD Vx, K`: enters the wait and nothing else; the poll completes it (45_keypad_timers.md R232;
40_execution_cycle.md R126). -/
def execLdVxK (x : Nibble) (s : State) : Result := .next (s.enterWait x)

/-- FX07 `LD Vx, DT` (45_keypad_timers.md R233). -/
def execLdVxDt (x : Nibble) (s : State) : Result := .next (s.setV x s.dt).advance

/-- FX15 `LD DT, Vx` (45_keypad_timers.md R234). -/
def execLdDtVx (x : Nibble) (s : State) : Result := .next (s.setDt (s.getV x)).advance

/-- FX18 `LD ST, Vx` (45_keypad_timers.md R235). -/
def execLdStVx (x : Nibble) (s : State) : Result := .next (s.setSt (s.getV x)).advance

end Sys2Proof.Machine
end

