-- ==== Sys2Proof/Machine/MemIndex.lean ====
section
/-! DEFINITION. Meanings of the index register and memory instructions (spec/43_memory_index.md). -/

namespace Sys2Proof.Machine

/-- ANNN `LD I, NNN` (43_memory_index.md R201). -/
def execLdI (nnn : Addr12) (s : State) : Result := .next (s.setI (zext12 nnn)).advance

/-- FX1E `ADD I, Vx`, 16 bits, no flag (43_memory_index.md R202). -/
def execAddIVx (x : Nibble) (s : State) : Result := .next (s.setI (s.I + zext8 (s.getV x))).advance

/-- FX29 `LD F, Vx` (43_memory_index.md R203). -/
def execLdFVx (x : Nibble) (s : State) : Result := .next (s.setI (glyphAddr (lowNibble (s.getV x)))).advance

/-- FX33 `LD B, Vx`: the three decimal digits at `I`, `I + 1`, `I + 2` (43_memory_index.md R204). -/
def execLdBVx (x : Nibble) (s : State) : Result :=
  guarded (checkWrite s.baseAddr 3) s
    (s.setMem (Memory.writeBytes s.mem s.baseAddr (decimalDigits (s.getV x)))).advance

/-- FX55 `LD [I], Vx`: registers 0 to X at `I` upward (43_memory_index.md R205). -/
def execStoreRegs (x : Nibble) (s : State) : Result :=
  guarded (checkWrite s.baseAddr (x.toNat + 1)) s
    ((s.setMem (Memory.writeBytes s.mem s.baseAddr (s.registerBytes 0 (x.toNat + 1)))).setI (s.indexAfter x)).advance

/-- FX65 `LD Vx, [I]`: registers 0 to X from `I` upward (43_memory_index.md R206). -/
def execLoadRegs (x : Nibble) (s : State) : Result :=
  guarded (checkRead s.baseAddr (x.toNat + 1)) s
    ((s.setRegs (setRegisters s.V 0 (Memory.readBytes s.mem s.baseAddr (x.toNat + 1)))).setI (s.indexAfter x)).advance

end Sys2Proof.Machine
end

