-- ==== Sys2Proof/Machine/Engine.lean ====
section
/-! DEFINITION. The Execution Engine (spec/40_execution_cycle.md): the `Step` event, the key-wait poll and the debug
controls. -/

namespace Sys2Proof.Machine

/-- `StepRunning`: fetch, decode, execute (40_execution_cycle.md R121). -/
def stepRunning (s : State) : Result :=
  match s.fetch with
  | .error e => raise e s
  | .ok w => exec (decodeWord w) s

/-- `PollKey()`: level-sensitive, the least pressed key, and no change at all while no key is pressed
(40_execution_cycle.md R127). -/
def pollKey (s : State) : State :=
  match leastKey s.keys with
  | none => s
  | some k => ((s.setV s.waitReg (k.setWidth 8)).advance).setEngine .running

/-- `Step`: what it does depends only on the engine's state (40_execution_cycle.md R120, R128, R129). -/
def stepEvent (s : State) : Result :=
  match s.engine with
  | .running => stepRunning s
  | .waitingForKey => .next (pollKey s)
  | .paused => .next s
  | .halted => .next s

/-- `Pause` (40_execution_cycle.md R130). -/
def pauseEvent (s : State) : State :=
  match s.engine with
  | .running => s.setEngine .paused
  | .paused | .waitingForKey | .halted => s

/-- `Resume` (40_execution_cycle.md R131). -/
def resumeEvent (s : State) : State :=
  match s.engine with
  | .paused => s.setEngine .running
  | .running | .waitingForKey | .halted => s

/-- The sub-steps of `SingleStep`: up to `n` `Step`s, ending early in `Halted` and in `Paused` otherwise
(40_execution_cycle.md R132). -/
def subSteps : Nat → State → Result
  | 0, s => .next (s.setEngine .paused)
  | n + 1, s =>
    match stepEvent s with
    | .next t => if t.engine = .halted then .next t else subSteps n t
    | .fault r => .fault r
    | .refused r => .refused r

/-- `SingleStep` (40_execution_cycle.md R132). -/
def singleStepEvent (s : State) : Result :=
  match s.engine with
  | .paused => subSteps Config.singleStepCount (s.setEngine .running)
  | .running | .waitingForKey | .halted => .next s

end Sys2Proof.Machine
end

