-- ==== Sys2Proof/Machine/Events.lean ====
section
/-! DEFINITION. The events other than the engine's own, and the application of any event to a state
(spec/00_scope.md R10, spec/60_exceptions.md R265, R266, spec/70_reset_and_hazards.md R290 to R292). -/

namespace Sys2Proof.Machine

/-- `max(t - 1, 0)` (60_exceptions.md R265; 41_arithmetic_bitwise.md R163). -/
def countDown (t : Byte) : Byte := if t = 0 then 0 else t - 1

/-- `Tick()`, in every engine state (60_exceptions.md R265, R267). -/
def tickEvent (s : State) : State := { s with dt := countDown s.dt, st := countDown s.st }

/-- `tick_if_due(now)`: at most one decrement, and `last` moves only when it was due (60_exceptions.md R266; times in
seconds, log 6). -/
def tickIfDueEvent (now : Rat) (s : State) : State :=
  if now - s.last ≥ 1 / (Config.timerHz : Rat) then { tickEvent s with last := now } else s

/-- `KeyWrite(k16)`, in every engine state (10_state.md R30). -/
def keyWriteEvent (k16 : Word) (s : State) : State := { s with keys := k16 }

/-- `Load(bytes)`: too long an image changes nothing (70_reset_and_hazards.md R292; 60_exceptions.md R255). -/
def loadEvent (bytes : List Byte) (s : State) : State :=
  if bytes.length > Config.maxRom then s
  else s.setMem (Memory.writeBytes s.mem Config.progBase bytes)

/-- Memory with 0x00 at every address: zeros over the font range, where an unlisted address would read as the font
(70_reset_and_hazards.md R290). -/
def zeroFilledMemory : Memory := Memory.writeBytes [] Config.fontBase (List.replicate Config.fontData.length 0)

/-- `Construct(mode_arg, cpt_arg)` at a given time. The model's own fields are not of the core and stay
(70_reset_and_hazards.md R290; log 13). -/
def constructEvent (mode : Mode) (cpt : PNat) (now : Rat) (s : State) : State :=
  { s with mode := mode, cpt := cpt, mem := zeroFilledMemory, keys := 0, last := now }.applyReset

/-- One event applied to the core (00_scope.md R10; 20_memory.md R70). `DumpState` only reads (10_state.md R45). -/
def applyEvent (e : Event) (s : State) : Result :=
  match e with
  | .construct mode cpt now => .next (constructEvent mode cpt now s)
  | .reset => .next s.applyReset
  | .load bytes => .next (loadEvent bytes s)
  | .step => stepEvent s
  | .pause => .next (pauseEvent s)
  | .resume => .next (resumeEvent s)
  | .singleStep => singleStepEvent s
  | .tick => .next (tickEvent s)
  | .tickIfDue now => .next (tickIfDueEvent now s)
  | .keyWrite k16 => .next (keyWriteEvent k16 s)
  | .dumpState => .next s

/-- The next event of the environment's schedule: the head of `inputs`, or a plain `Step` when none is left (20_memory.md
R70; log 1). -/
def nextEvent (s : State) : Event := s.inputs.headD .step

/-- The state with the next event taken off the schedule (log 1). -/
def takeInput (s : State) : State := { s with inputs := s.inputs.tail }

/-- The state with the bytes of a word placed where the next `Step` fetches, and everything that such a `Step` needs: no
event before it, a running engine with no error latched, and a program counter a fetch accepts (log 10). -/
def placeAtFetch (s : State) (bytes : List Byte) : State :=
  let pc := if s.pc.toNat > 0xFFE then 0x200 else s.pc
  { s with mem := Memory.writeBytes s.mem pc.toNat bytes, pc := pc, engine := .running, err := none, inputs := [] }

end Sys2Proof.Machine
end

