-- ==== Sys2Proof/Machine/Outputs.lean ====
section
/-! DEFINITION. The outputs of the core (spec/10_state.md R41 to R45): pure reads of the state, and the report of an event,
computed from the state the event meets. No output is kept in the state (R44; log 7). -/

namespace Sys2Proof.Machine

/-- `tone_on` (10_state.md R41). -/
def toneOn (s : State) : Bool := decide (0 < s.st.toNat)

/-- The display read port (10_state.md R41). -/
def displayRead (s : State) (x : Fin 64) (y : Fin 32) : Bool := Display.pixel s.disp x y

/-- The state query (10_state.md R41, R45). -/
def stateQuery (s : State) : EngineState × Option FatalError := (s.engine, s.err)

/-- What `dump_state()` returns (10_state.md R45). -/
structure Dump where
  pc : Word
  I : Word
  V : Vector Byte 16
  stack : Vector Word 16
  sp : Fin 17
  dt : Byte
  st : Byte
  mode : Mode
  engine : EngineState
  deriving DecidableEq, Repr

/-- `dump_state()` (10_state.md R45). -/
def dumpState (s : State) : Dump := ⟨s.pc, s.I, s.V, s.stack, s.sp, s.dt, s.st, s.mode, s.engine⟩

/-- The suggested codes of the port `state[1:0]`, not normative (10_state.md R42; log 14). -/
def engineCode : EngineState → BitVec 2
  | .running => 0
  | .paused => 1
  | .waitingForKey => 2
  | .halted => 3

/-- The suggested codes of the port `err[2:0]`, not normative (60_exceptions.md R253; log 14). -/
def errorCode : Option FatalError → BitVec 3
  | none => 0
  | some .stackOverflow => 1
  | some .stackUnderflow => 2
  | some (.memoryFault .fetch _) => 3
  | some (.memoryFault .read _) => 4
  | some (.memoryFault .write _) => 5
  | some (.memoryFault .writeProtected _) => 6

/-- The report's `kind` (10_state.md R44). -/
inductive ReportKind where
  | executed
  | waiting
  | rejected
  | faulted
  deriving DecidableEq, Repr

/-- The report's `effects`, of which one step has at most one (10_state.md R44). -/
inductive Effect where
  | displayChanged
  | delayTimerSet
  | soundTimerSet
  deriving DecidableEq, Repr

/-- The report's `error`, where no error is `none` (10_state.md R44). -/
inductive ReportError where
  | unknownOpcode (w : Word)
  | fatal (e : FatalError)
  deriving DecidableEq, Repr

/-- The step report (10_state.md R44). -/
structure Report where
  kind : ReportKind
  word : Option Word
  op : Option Instr
  effect : Option Effect
  error : Option ReportError
  deriving DecidableEq, Repr

/-- The side effect that an executed instruction reports (10_state.md R44). -/
def effectOf : Instr → Option Effect
  | .cls | .drw _ _ _ => some .displayChanged
  | .ldDtVx _ => some .delayTimerSet
  | .ldStVx _ => some .soundTimerSet
  | .ret | .unknown _ | .jp _ | .call _ | .seImm _ _ | .sneImm _ _ | .seReg _ _ => none
  | .ldImm _ _ | .addImm _ _ | .ldReg _ _ | .or _ _ | .and _ _ | .xor _ _ => none
  | .addReg _ _ | .sub _ _ | .shr _ _ | .subn _ _ | .shl _ _ | .sneReg _ _ => none
  | .ldI _ | .jpV0 _ | .rnd _ _ | .skp _ | .sknp _ | .ldVxDt _ | .ldVxK _ => none
  | .addIVx _ | .ldFVx _ | .ldBVx _ | .storeRegs _ | .loadRegs _ => none

/-- The error that a completed instruction reports: `UnknownOpcodeError(w)` for an unknown word (60_exceptions.md R254). -/
def errorOf : Instr → Option ReportError
  | .unknown w => some (.unknownOpcode w)
  | .cls | .drw _ _ _ | .ldDtVx _ | .ldStVx _ => none
  | .ret | .jp _ | .call _ | .seImm _ _ | .sneImm _ _ | .seReg _ _ => none
  | .ldImm _ _ | .addImm _ _ | .ldReg _ _ | .or _ _ | .and _ _ | .xor _ _ => none
  | .addReg _ _ | .sub _ _ | .shr _ _ | .subn _ _ | .shl _ _ | .sneReg _ _ => none
  | .ldI _ | .jpV0 _ | .rnd _ _ | .skp _ | .sknp _ | .ldVxDt _ | .ldVxK _ => none
  | .addIVx _ | .ldFVx _ | .ldBVx _ | .storeRegs _ | .loadRegs _ => none

/-- The report of an instruction fetched as `w`, from the state its execution leaves (10_state.md R44;
60_exceptions.md R250; 40_execution_cycle.md R126). -/
def executionReport (w : Word) (i : Instr) (t : State) : Report :=
  match t.engine with
  | .halted => ⟨.faulted, some w, some i, none, t.err.map .fatal⟩
  | .waitingForKey => ⟨.waiting, some w, some i, effectOf i, errorOf i⟩
  | .running | .paused => ⟨.executed, some w, some i, effectOf i, errorOf i⟩

/-- The report of a `Step` in `Running` (40_execution_cycle.md R121). -/
def runningReport (s : State) : Report :=
  match s.fetch with
  | .error e => ⟨.faulted, none, none, none, some (.fatal e)⟩
  | .ok w =>
    match exec (decodeWord w) s with
    | .next t => executionReport w (decodeWord w) t
    | .fault _ | .refused _ => ⟨.rejected, some w, some (decodeWord w), none, none⟩

/-- The step report of a `Step` that meets the state `s` (10_state.md R44; 40_execution_cycle.md R120, R127 to R129). -/
def stepReport (s : State) : Report :=
  match s.engine with
  | .running => runningReport s
  | .waitingForKey =>
    match leastKey s.keys with
    | none => ⟨.waiting, none, none, none, none⟩
    | some _ => ⟨.executed, none, some (.ldVxK s.waitReg), none, none⟩
  | .paused => ⟨.rejected, none, none, none, none⟩
  | .halted => ⟨.faulted, none, none, none, s.err.map .fatal⟩

/-- The reports of the sub-steps of `SingleStep` (40_execution_cycle.md R132). -/
def subStepReports : Nat → State → List Report
  | 0, _ => []
  | n + 1, s =>
    stepReport s ::
      match stepEvent s with
      | .next t => if t.engine = .halted then [] else subStepReports n t
      | .fault _ | .refused _ => []

/-- The report of `SingleStep`: the list of its sub-steps' reports, or one rejection (40_execution_cycle.md R132). R132
gives a rejection its `kind` only: that it is a list of one is log 7 (DEDUCED), and that its `error` is none in every
engine state, also in `Halted` where R44 would allow the latched error, is the model's own (DESIGN CHOICE, log 15). -/
def singleStepReports (s : State) : List Report :=
  match s.engine with
  | .paused => subStepReports Config.singleStepCount (s.setEngine .running)
  | .running | .waitingForKey | .halted => [⟨.rejected, none, none, none, none⟩]

/-- The result of `Load` (10_state.md R41; 60_exceptions.md R255). -/
inductive LoadResult where
  | ok
  | romTooLarge
  deriving DecidableEq, Repr

/-- What `Load(bytes)` returns (70_reset_and_hazards.md R292). -/
def loadResult (bytes : List Byte) : LoadResult := if bytes.length > Config.maxRom then .romTooLarge else .ok

/-- What an event returns to its caller. -/
inductive EventReport where
  | none
  | step (r : Report)
  | singleStep (rs : List Report)
  | load (r : LoadResult)
  | dump (d : Dump)
  deriving DecidableEq, Repr

/-- What an event that meets the state `s` returns (10_state.md R41, R44, R45). -/
def eventReport (e : Event) (s : State) : EventReport :=
  match e with
  | .step => .step (stepReport s)
  | .singleStep => .singleStep (singleStepReports s)
  | .load bytes => .load (loadResult bytes)
  | .dumpState => .dump (dumpState s)
  | .construct _ _ _ | .reset | .pause | .resume => .none
  | .tick | .tickIfDue _ | .keyWrite _ => .none

/-- What the next step of the machine returns to the environment. -/
def output (s : State) : EventReport := eventReport (nextEvent s) s

end Sys2Proof.Machine
end

