-- ==== Sys2Proof/Machine/Step.lean ====
section
/-! DEFINITION. One step of the machine: one event (spec/20_memory.md R70), which is a `Step` whenever the environment's
schedule names no other (log 1). -/

namespace Sys2Proof.Machine

/-- One step: the next event of the schedule, applied to the core. -/
def step (s : State) : Host.Outcome State Fault Refusal := applyEvent (nextEvent s) (takeInput s)

/-- The state whose very next step runs the instruction of a table word (log 10). -/
def State.withFetchWord (s : State) (nbits w : Nat) : State := placeAtFetch s (tableWordBytes nbits w)

end Sys2Proof.Machine
end

