-- ==== Sys2Proof/WellFormed.lean ====
section
/-! DEFINITION. Well-formed instructions. The fields have exactly their widths, so every value of a field is legal
(spec/30_encoding.md R93); what is left to check is that `Unknown(w)` carries a word that is unknown (R97). -/

namespace Sys2Proof

/-- The words of 30_encoding.md R97's table, row by row. -/
def isUnknownWord (w : Word) : Bool :=
  (fieldOp w == 0x0 && w != 0x00E0 && w != 0x00EE) ||
  (fieldOp w == 0x5 && fieldN w != 0) ||
  (fieldOp w == 0x8 && [0x8, 0x9, 0xA, 0xB, 0xC, 0xD, 0xF].contains (fieldN w)) ||
  (fieldOp w == 0x9 && fieldN w != 0) ||
  (fieldOp w == 0xE && !([0x9E, 0xA1].contains (fieldNN w))) ||
  (fieldOp w == 0xF && !([0x07, 0x0A, 0x15, 0x18, 0x1E, 0x29, 0x33, 0x55, 0x65].contains (fieldNN w)))

/-- The check, constructor by constructor (30_encoding.md R93, R97). -/
def wellFormed : Instr → Bool
  | .unknown w => isUnknownWord w
  | .cls | .ret => true
  | .jp _ | .call _ | .ldI _ | .jpV0 _ => true
  | .seImm _ _ | .sneImm _ _ | .ldImm _ _ | .addImm _ _ | .rnd _ _ => true
  | .seReg _ _ | .sneReg _ _ | .ldReg _ _ | .or _ _ | .and _ _ | .xor _ _ => true
  | .addReg _ _ | .sub _ _ | .shr _ _ | .subn _ _ | .shl _ _ => true
  | .drw _ _ _ => true
  | .skp _ | .sknp _ | .ldVxDt _ | .ldVxK _ | .ldDtVx _ | .ldStVx _ => true
  | .addIVx _ | .ldFVx _ | .ldBVx _ | .storeRegs _ | .loadRegs _ => true

/-- An instruction that some word stands for. -/
abbrev WellFormed (i : Instr) : Prop := wellFormed i = true

end Sys2Proof
end

