-- ==== Sys2Proof/Safety.lean ====
section
/-! DEFINITION. What the claims speak of: a good state, the invariant every step keeps, what two states have in common, the
words of the spec's own encoding formulas, and the sprite bit that falls on a pixel. -/

namespace Sys2Proof.Machine

/-- No fault is recorded (40_execution_cycle.md R135: `Halted` is never a good ending). -/
abbrev State.good (s : State) : Prop := s.engine ≠ .halted ∧ s.err = none

/-- Nothing below 0x200 differs from the reset content (20_memory.md R63, R65). -/
abbrev State.lowMemoryIntact (s : State) : Prop :=
  ∀ a, a < 0x200 → Memory.read s.mem a = Config.resetByte a

/-- The error latch and the engine agree (10_state.md R34). -/
abbrev State.latchAgrees (s : State) : Prop := s.err = none ↔ s.engine ≠ .halted

/-- What holds in every state that a run reaches. -/
structure State.Inv (s : State) : Prop where
  memory : Memory.wf s.mem
  low : s.lowMemoryIntact
  latch : s.latchAgrees

/-- The program counter and every live return address are even (20_memory.md R61). -/
def State.evenCode (s : State) : Prop :=
  s.pc.toNat % 2 = 0 ∧ ∀ k : Fin 16, k.val < s.sp.val → (s.stackAt k).toNat % 2 = 0

/-- The parts of the state that an instruction can change, but for the program counter. -/
inductive Part where
  | registers
  | index
  | memory
  | stack
  | display
  | timers
  | engine
  | draws
  deriving DecidableEq, Repr

/-- A part is the same in two states, as a program or a collaborator reads it. -/
def Part.same (p : Part) (s t : State) : Prop :=
  match p with
  | .registers => ∀ x, t.getV x = s.getV x
  | .index => t.I = s.I
  | .memory => ∀ a, Memory.read t.mem a = Memory.read s.mem a
  | .stack => t.sp = s.sp ∧ ∀ k, t.stackAt k = s.stackAt k
  | .display => ∀ x y, Display.pixel t.disp x y = Display.pixel s.disp x y
  | .timers => t.dt = s.dt ∧ t.st = s.st
  | .engine => t.engine = s.engine ∧ t.waitReg = s.waitReg ∧ t.err = s.err
  | .draws => t.draws = s.draws

/-- What no instruction changes is the same: the Input Latch, the mode flag, `cpt`, `last` and the schedule. -/
def SameOutside (s t : State) : Prop :=
  t.keys = s.keys ∧ t.mode = s.mode ∧ t.cpt = s.cpt ∧ t.last = s.last ∧ t.inputs = s.inputs

/-- The frame: every part but those of a list is the same, and so is all that no instruction changes. The program counter
may change. -/
def Unchanged (s t : State) (but : List Part) : Prop := SameOutside s t ∧ ∀ p, p ∉ but → p.same s t

/-- Every general register but those of a list is the same. -/
def SameVBut (s t : State) (xs : List Nibble) : Prop := ∀ y, y ∉ xs → t.getV y = s.getV y

/-- Every byte of memory reads the same but the `n` bytes from address `a` on. -/
def SameMemoryOutside (s t : State) (a n : Nat) : Prop :=
  ∀ b, b < a ∨ a + n ≤ b → Memory.read t.mem b = Memory.read s.mem b

/-- The entry to `Halted` with an error, and nothing else changed (60_exceptions.md R250). -/
def HaltedWith (s t : State) (e : FatalError) : Prop :=
  t.engine = .halted ∧ t.err = some e ∧ t.pc = s.pc ∧ t.waitReg = s.waitReg ∧ Unchanged s t [.engine]

/-- An instruction that sets the program counter itself (40_execution_cycle.md R125). -/
def setsPc : Instr → Bool
  | .jp _ | .call _ | .ret | .jpV0 _ => true
  | .seImm _ _ | .sneImm _ _ | .seReg _ _ | .sneReg _ _ | .skp _ | .sknp _ | .ldVxK _ => true
  | .cls | .unknown _ | .ldImm _ _ | .addImm _ _ | .ldReg _ _ | .or _ _ | .and _ _ | .xor _ _ => false
  | .addReg _ _ | .sub _ _ | .shr _ _ | .subn _ _ | .shl _ _ | .ldI _ | .rnd _ _ | .drw _ _ _ => false
  | .ldVxDt _ | .ldDtVx _ | .ldStVx _ | .addIVx _ | .ldFVx _ | .ldBVx _ | .storeRegs _ | .loadRegs _ => false

/-- An instruction that the mode flag affects (10_state.md R31). -/
def usesMode : Instr → Bool
  | .shr _ _ | .shl _ _ | .storeRegs _ | .loadRegs _ => true
  | .cls | .ret | .unknown _ | .jp _ | .call _ | .seImm _ _ | .sneImm _ _ | .seReg _ _ => false
  | .ldImm _ _ | .addImm _ _ | .ldReg _ _ | .or _ _ | .and _ _ | .xor _ _ | .addReg _ _ => false
  | .sub _ _ | .subn _ _ | .sneReg _ _ | .ldI _ | .jpV0 _ | .rnd _ _ | .drw _ _ _ => false
  | .skp _ | .sknp _ | .ldVxDt _ | .ldVxK _ | .ldDtVx _ | .ldStVx _ => false
  | .addIVx _ | .ldFVx _ | .ldBVx _ => false

/-- An instruction that reads the Input Latch when it executes (10_state.md R30). -/
def readsKeys : Instr → Bool
  | .skp _ | .sknp _ => true
  | .cls | .ret | .unknown _ | .jp _ | .call _ | .seImm _ _ | .sneImm _ _ | .seReg _ _ => false
  | .ldImm _ _ | .addImm _ _ | .ldReg _ _ | .or _ _ | .and _ _ | .xor _ _ | .addReg _ _ => false
  | .sub _ _ | .shr _ _ | .subn _ _ | .shl _ _ | .sneReg _ _ | .ldI _ | .jpV0 _ | .rnd _ _ => false
  | .drw _ _ _ | .ldVxDt _ | .ldVxK _ | .ldDtVx _ | .ldStVx _ => false
  | .addIVx _ | .ldFVx _ | .ldBVx _ | .storeRegs _ | .loadRegs _ => false

/-- An instruction that writes VF as a flag (10_state.md R39). -/
def writesFlag : Instr → Bool
  | .addReg _ _ | .sub _ _ | .subn _ _ | .shr _ _ | .shl _ _ | .drw _ _ _ => true
  | .cls | .ret | .unknown _ | .jp _ | .call _ | .seImm _ _ | .sneImm _ _ | .seReg _ _ => false
  | .ldImm _ _ | .addImm _ _ | .ldReg _ _ | .or _ _ | .and _ _ | .xor _ _ => false
  | .sneReg _ _ | .ldI _ | .jpV0 _ | .rnd _ _ | .skp _ | .sknp _ | .ldVxDt _ | .ldVxK _ => false
  | .ldDtVx _ | .ldStVx _ | .addIVx _ | .ldFVx _ | .ldBVx _ | .storeRegs _ | .loadRegs _ => false

/-- The register that an instruction names as its destination when it executes, if there is one, and the last of them for
FX65 (10_state.md R39). FX0A writes its register only when the wait completes. -/
def destination : Instr → Option Nibble
  | .ldImm x _ | .addImm x _ | .ldReg x _ | .or x _ | .and x _ | .xor x _ => some x
  | .addReg x _ | .sub x _ | .shr x _ | .subn x _ | .shl x _ | .rnd x _ => some x
  | .ldVxDt x | .loadRegs x => some x
  | .cls | .ret | .unknown _ | .jp _ | .call _ | .seImm _ _ | .sneImm _ _ | .seReg _ _ => none
  | .sneReg _ _ | .ldI _ | .jpV0 _ | .drw _ _ _ | .skp _ | .sknp _ | .ldVxK _ => none
  | .ldDtVx _ | .ldStVx _ | .addIVx _ | .ldFVx _ | .ldBVx _ | .storeRegs _ => none

/-- An instruction that can raise a fatal error of its own (60_exceptions.md R251, R252). -/
def canFault : Instr → Bool
  | .call _ | .ret | .drw _ _ _ | .loadRegs _ | .ldBVx _ | .storeRegs _ => true
  | .cls | .unknown _ | .jp _ | .seImm _ _ | .sneImm _ _ | .seReg _ _ => false
  | .ldImm _ _ | .addImm _ _ | .ldReg _ _ | .or _ _ | .and _ _ | .xor _ _ | .addReg _ _ => false
  | .sub _ _ | .shr _ _ | .subn _ _ | .shl _ _ | .sneReg _ _ | .ldI _ | .jpV0 _ | .rnd _ _ => false
  | .skp _ | .sknp _ | .ldVxDt _ | .ldVxK _ | .ldDtVx _ | .ldStVx _ | .addIVx _ | .ldFVx _ => false

/-- The target of a jump or a call to an odd address: what a program must not do to keep its code even
(20_memory.md R61). -/
def jumpsToOdd (i : Instr) (s : State) : Prop :=
  (∃ nnn : Addr12, (i = .jp nnn ∨ i = .call nnn) ∧ nnn.toNat % 2 = 1) ∨
  (∃ nnn : Addr12, i = .jpV0 nnn ∧ (nnn.toNat + (s.getV 0).toNat) % 2 = 1)

/-- The sprite bit that falls on the pixel in column `px` and row `py` when DXYN draws: the pixel lies `c` columns right of
and `r` rows below the start position, modulo the size of the display, and bit `7 - c` of byte `r` is its bit
(44_display.md R221). -/
def spriteBit (s : State) (x y n : Nibble) (px : Fin 64) (py : Fin 32) : Bool :=
  let c := (px.val + 64 - (s.getV x).toNat % 64) % 64
  let r := (py.val + 32 - (s.getV y).toNat % 32) % 32
  decide (c < 8) && decide (r < n.toNat) && (Memory.read s.mem (s.baseAddr + r)).getLsbD (7 - c)

/-- `base | NNN`, as the instruction rules write a word. -/
def wordNNN (base : Word) (nnn : Addr12) : Word := base ||| nnn.setWidth 16

/-- `base | X << 8 | NN`, as the instruction rules write a word. -/
def wordXNN (base : Word) (x : Nibble) (nn : Byte) : Word := base ||| x.setWidth 16 <<< 8 ||| nn.setWidth 16

/-- `base | X << 8 | Y << 4 | N`, as the instruction rules write a word. -/
def wordXYN (base : Word) (x y n : Nibble) : Word :=
  base ||| x.setWidth 16 <<< 8 ||| y.setWidth 16 <<< 4 ||| n.setWidth 16

/-- `base | X << 8 | Y << 4`, as the instruction rules write a word. -/
def wordXY (base : Word) (x y : Nibble) : Word := base ||| x.setWidth 16 <<< 8 ||| y.setWidth 16 <<< 4

/-- `base | X << 8`, as the instruction rules write a word. -/
def wordX (base : Word) (x : Nibble) : Word := base ||| x.setWidth 16 <<< 8

/-- The calls `tick_if_due(now)` of a list of times, one after the other. -/
def tickAll : List Rat → State → State
  | [], s => s
  | now :: times, s => tickAll times (tickIfDueEvent now s)

end Sys2Proof.Machine
end

