-- ==== Sys2Proof/Certificates/Slice0/Obligations.lean ====
section
/-! DEFINITION. The statements for the provers. Each says in its docstring which rule of spec/ it formalises, or what it
is derived from. -/

open Sys2Proof Sys2Proof.Machine

/-! ### Arithmetic, bitwise, shift, load and random instructions (spec/41_arithmetic_bitwise.md) -/

/-- R151, R152: 6XNN writes NN, 7XNN adds it modulo 256 and writes no flag; nothing else changes. -/
def Obligations.LoadAndAddImmediate : Prop :=
  ∀ (x : Nibble) (nn : Byte),
    (decodeWord (wordXNN 0x6000 x nn) = .ldImm x nn ∧
      ∀ s, ∃ t, exec (.ldImm x nn) s = .next t ∧ t.getV x = nn ∧
        SameVBut s t [x] ∧ Unchanged s t [.registers] ∧ t.pc = s.pc + 2) ∧
    (decodeWord (wordXNN 0x7000 x nn) = .addImm x nn ∧
      ∀ s, ∃ t, exec (.addImm x nn) s = .next t ∧ (t.getV x).toNat = ((s.getV x).toNat + nn.toNat) % 256 ∧
        SameVBut s t [x] ∧ Unchanged s t [.registers] ∧ t.pc = s.pc + 2)

/-- R153 to R156: 8XY0 copies, 8XY1, 8XY2, 8XY3 combine bit by bit; VF is no flag of theirs. Decisions of the spec: D11
(VF unchanged by the bitwise operations) (log 12). -/
def Obligations.CopyAndBitwise : Prop :=
  ∀ x y : Nibble,
    decodeWord (wordXY 0x8000 x y) = .ldReg x y ∧ decodeWord (wordXY 0x8001 x y) = .or x y ∧
    decodeWord (wordXY 0x8002 x y) = .and x y ∧ decodeWord (wordXY 0x8003 x y) = .xor x y ∧
    ∀ s,
      (∃ t, exec (.ldReg x y) s = .next t ∧ t.getV x = s.getV y ∧
        SameVBut s t [x] ∧ Unchanged s t [.registers] ∧ t.pc = s.pc + 2) ∧
      (∃ t, exec (.or x y) s = .next t ∧
        (∀ i, (t.getV x).getLsbD i = ((s.getV x).getLsbD i || (s.getV y).getLsbD i)) ∧
        SameVBut s t [x] ∧ Unchanged s t [.registers] ∧ t.pc = s.pc + 2) ∧
      (∃ t, exec (.and x y) s = .next t ∧
        (∀ i, (t.getV x).getLsbD i = ((s.getV x).getLsbD i && (s.getV y).getLsbD i)) ∧
        SameVBut s t [x] ∧ Unchanged s t [.registers] ∧ t.pc = s.pc + 2) ∧
      (∃ t, exec (.xor x y) s = .next t ∧
        (∀ i, (t.getV x).getLsbD i = ((s.getV x).getLsbD i ^^ (s.getV y).getLsbD i)) ∧
        SameVBut s t [x] ∧ Unchanged s t [.registers] ∧ t.pc = s.pc + 2)

/-- R158: 8XY4 adds modulo 256 and leaves the carry in VF, which wins when X = 0xF. Decisions of the spec: D12 (the order
of the two writes) (log 12). -/
def Obligations.AddSetsSumAndCarry : Prop :=
  ∀ x y : Nibble,
    decodeWord (wordXY 0x8004 x y) = .addReg x y ∧
    ∀ s, ∃ t, exec (.addReg x y) s = .next t ∧
      (x ≠ 0xF → (t.getV x).toNat = ((s.getV x).toNat + (s.getV y).toNat) % 256) ∧
      t.getV 0xF = (if (s.getV x).toNat + (s.getV y).toNat > 255 then 1 else 0) ∧
      SameVBut s t [x, 0xF] ∧ Unchanged s t [.registers] ∧ t.pc = s.pc + 2

/-- R159, R161: 8XY5 and 8XY7 subtract modulo 256 and leave "no borrow" in VF, which wins when X = 0xF. Decisions of the
spec: D12 (the order of the two writes) and D13 (the sense of the flag) (log 12). -/
def Obligations.SubtractSetsDifferenceAndNoBorrow : Prop :=
  ∀ x y : Nibble,
    decodeWord (wordXY 0x8005 x y) = .sub x y ∧ decodeWord (wordXY 0x8007 x y) = .subn x y ∧
    ∀ s,
      (∃ t, exec (.sub x y) s = .next t ∧
        (x ≠ 0xF → (t.getV x).toNat =
          if (s.getV x).toNat ≥ (s.getV y).toNat then (s.getV x).toNat - (s.getV y).toNat
          else (s.getV x).toNat + 256 - (s.getV y).toNat) ∧
        t.getV 0xF = (if (s.getV x).toNat ≥ (s.getV y).toNat then 1 else 0) ∧
        SameVBut s t [x, 0xF] ∧ Unchanged s t [.registers] ∧ t.pc = s.pc + 2) ∧
      (∃ t, exec (.subn x y) s = .next t ∧
        (x ≠ 0xF → (t.getV x).toNat =
          if (s.getV y).toNat ≥ (s.getV x).toNat then (s.getV y).toNat - (s.getV x).toNat
          else (s.getV y).toNat + 256 - (s.getV x).toNat) ∧
        t.getV 0xF = (if (s.getV y).toNat ≥ (s.getV x).toNat then 1 else 0) ∧
        SameVBut s t [x, 0xF] ∧ Unchanged s t [.registers] ∧ t.pc = s.pc + 2)

/-- R160, R162: 8XY6 and 8XYE shift V[Y] in legacy mode and V[X] in CHIP-48 mode by one place, and leave the bit shifted
out in VF, which wins when X = 0xF. Decisions of the spec: D12 (the order of the two writes) and D14 (the flag) (log 12).
-/
def Obligations.ShiftsFollowMode : Prop :=
  ∀ x y : Nibble,
    decodeWord (wordXY 0x8006 x y) = .shr x y ∧ decodeWord (wordXY 0x800E x y) = .shl x y ∧
    ∀ (s : State) (v : Byte), v = (if s.mode = .legacy then s.getV y else s.getV x) →
      (∃ t, exec (.shr x y) s = .next t ∧ (x ≠ 0xF → (t.getV x).toNat = v.toNat / 2) ∧
        (t.getV 0xF).toNat = v.toNat % 2 ∧
        SameVBut s t [x, 0xF] ∧ Unchanged s t [.registers] ∧ t.pc = s.pc + 2) ∧
      (∃ t, exec (.shl x y) s = .next t ∧ (x ≠ 0xF → (t.getV x).toNat = 2 * v.toNat % 256) ∧
        (t.getV 0xF).toNat = v.toNat / 128 ∧
        SameVBut s t [x, 0xF] ∧ Unchanged s t [.registers] ∧ t.pc = s.pc + 2)

/-- Derived from 41_arithmetic_bitwise.md, Random: CXNN writes the random byte masked by NN, whichever byte is drawn.
That the byte is `Config.rnd` of a count of draws is the model's choice (log 2); the statement holds whatever its values.
-/
def Obligations.RandomByteIsMasked : Prop :=
  ∀ (x : Nibble) (nn : Byte),
    decodeWord (wordXNN 0xC000 x nn) = .rnd x nn ∧
    (∀ s, ∃ t, exec (.rnd x nn) s = .next t ∧ t.getV x = Config.rnd s.draws &&& nn ∧
      (∀ i, nn.getLsbD i = false → (t.getV x).getLsbD i = false) ∧ t.draws = s.draws + 1 ∧
      SameVBut s t [x] ∧ Unchanged s t [.registers, .draws] ∧ t.pc = s.pc + 2) ∧
    ∀ (s : State) (byte : Byte), (s.drawInto byte x nn).getV x = byte &&& nn ∧
      SameVBut s (s.drawInto byte x nn) [x] ∧ Unchanged s (s.drawInto byte x nn) [.registers] ∧
      (s.drawInto byte x nn).pc = s.pc + 2

/-! ### Control transfer (spec/42_control_flow.md) -/

/-- R183, R184: 1NNN goes to NNN and BNNN to NNN + V[0], in both modes; nothing but the program counter changes.
Decisions of the spec: D20 (V[0] in both modes) (log 12). -/
def Obligations.JumpsSetThePc : Prop :=
  ∀ nnn : Addr12,
    decodeWord (wordNNN 0x1000 nnn) = .jp nnn ∧ decodeWord (wordNNN 0xB000 nnn) = .jpV0 nnn ∧
    ∀ s,
      (∃ t, exec (.jp nnn) s = .next t ∧ t.pc.toNat = nnn.toNat ∧ Unchanged s t []) ∧
      (∃ t, exec (.jpV0 nnn) s = .next t ∧ t.pc.toNat = (nnn.toNat + (s.getV 0).toNat) % 65536 ∧ Unchanged s t [])

/-- R182: 2NNN pushes the address of the next instruction and goes to NNN; with 16 addresses held it is the fatal
`StackOverflowError`. Decisions of the spec: D7 (the error changes nothing else), and the pushed `pc + 2` as derived (log
12). -/
def Obligations.CallPushesReturnAddress : Prop :=
  ∀ nnn : Addr12, decodeWord (wordNNN 0x2000 nnn) = .call nnn ∧
    ∀ s,
      (s.sp.val < 16 → ∃ t, exec (.call nnn) s = .next t ∧ t.sp.val = s.sp.val + 1 ∧
        (∀ k : Fin 16, t.stackAt k = if k.val = s.sp.val then s.pc + 2 else s.stackAt k) ∧
        t.pc.toNat = nnn.toNat ∧ Unchanged s t [.stack]) ∧
      (s.sp.val = 16 → ∃ t, exec (.call nnn) s = .next t ∧ HaltedWith s t .stackOverflow)

/-- R181: 00EE takes the top return address, which keeps its place in the stack; with no address held it is the fatal
`StackUnderflowError`. Decisions of the spec: D7 (the error changes nothing else) and D21 (the popped entry stays) (log
12). -/
def Obligations.RetTakesReturnAddress : Prop :=
  decodeWord 0x00EE = .ret ∧
    ∀ s,
      (∀ k : Fin 16, s.sp.val = k.val + 1 → ∃ t, exec .ret s = .next t ∧ t.sp.val = k.val ∧ t.pc = s.stackAt k ∧
        (∀ j, t.stackAt j = s.stackAt j) ∧ Unchanged s t [.stack]) ∧
      (s.sp.val = 0 → ∃ t, exec .ret s = .next t ∧ HaltedWith s t .stackUnderflow)

/-- Derived from 42_control_flow.md section 2: a return after a call goes on with the instruction after the call, with
the stack pointer as it was. -/
def Obligations.ReturnComesBackAfterTheCall : Prop :=
  ∀ (nnn : Addr12) (s : State), s.sp.val < 16 →
    ∃ t u, exec (.call nnn) s = .next t ∧ exec .ret t = .next u ∧
      u.pc = s.pc + 2 ∧ u.sp = s.sp ∧ Unchanged s u [.stack]

/-- R185 to R188: the four skips go 4 bytes on if their condition holds and 2 if it does not. -/
def Obligations.SkipsCompareRegisters : Prop :=
  (∀ (x : Nibble) (nn : Byte),
    decodeWord (wordXNN 0x3000 x nn) = .seImm x nn ∧ decodeWord (wordXNN 0x4000 x nn) = .sneImm x nn ∧
    ∀ s,
      (∃ t, exec (.seImm x nn) s = .next t ∧ t.pc = (if s.getV x = nn then s.pc + 4 else s.pc + 2) ∧ Unchanged s t []) ∧
      (∃ t, exec (.sneImm x nn) s = .next t ∧ t.pc = (if s.getV x ≠ nn then s.pc + 4 else s.pc + 2) ∧
        Unchanged s t [])) ∧
  (∀ x y : Nibble,
    decodeWord (wordXY 0x5000 x y) = .seReg x y ∧ decodeWord (wordXY 0x9000 x y) = .sneReg x y ∧
    (∀ n : Nibble, n ≠ 0 → decodeWord (wordXYN 0x5000 x y n) = .unknown (wordXYN 0x5000 x y n) ∧
      decodeWord (wordXYN 0x9000 x y n) = .unknown (wordXYN 0x9000 x y n)) ∧
    ∀ s,
      (∃ t, exec (.seReg x y) s = .next t ∧ t.pc = (if s.getV x = s.getV y then s.pc + 4 else s.pc + 2) ∧
        Unchanged s t []) ∧
      (∃ t, exec (.sneReg x y) s = .next t ∧ t.pc = (if s.getV x ≠ s.getV y then s.pc + 4 else s.pc + 2) ∧
        Unchanged s t []))

/-- R180, R254: a word of 0NNN other than 00E0 and 00EE, and every other unknown word, is a no-op that advances the
program counter by 2 and is reported as `UnknownOpcodeError`. Decisions of the spec: D9 (SYS is unknown) and D10 (the
advance) (log 12). -/
def Obligations.UnknownWordsAreReportedNoOps : Prop :=
  (∀ nnn : Addr12, nnn ≠ 0x0E0 → nnn ≠ 0x0EE → decodeWord (wordNNN 0x0000 nnn) = .unknown (wordNNN 0x0000 nnn)) ∧
  (∀ w s, ∃ t, exec (.unknown w) s = .next t ∧ t.pc = s.pc + 2 ∧ Unchanged s t []) ∧
  (∀ w s, s.engine = .running → s.fetch = .ok w → decodeWord w = .unknown w →
    stepReport s = ⟨.executed, some w, some (.unknown w), none, some (.unknownOpcode w)⟩)

/-! ### Index register and memory (spec/43_memory_index.md) -/

/-- R201, R202, R203: ANNN loads I, FX1E adds to it modulo 65536 without a flag, FX29 points it at a glyph. Decisions of
the spec: D2 (the font base), D15 (no flag), D16 (the low nibble) and D31 (16 bits) (log 12). -/
def Obligations.IndexRegisterWrites : Prop :=
  (∀ nnn : Addr12, decodeWord (wordNNN 0xA000 nnn) = .ldI nnn ∧
    ∀ s, ∃ t, exec (.ldI nnn) s = .next t ∧ t.I.toNat = nnn.toNat ∧ Unchanged s t [.index] ∧ t.pc = s.pc + 2) ∧
  (∀ x : Nibble, decodeWord (wordX 0xF01E x) = .addIVx x ∧ decodeWord (wordX 0xF029 x) = .ldFVx x ∧
    ∀ s,
      (∃ t, exec (.addIVx x) s = .next t ∧ t.I.toNat = (s.I.toNat + (s.getV x).toNat) % 65536 ∧
        Unchanged s t [.index] ∧ t.pc = s.pc + 2) ∧
      (∃ t, exec (.ldFVx x) s = .next t ∧ t.I.toNat = 0x050 + 5 * ((s.getV x).toNat % 16) ∧
        Unchanged s t [.index] ∧ t.pc = s.pc + 2))

/-- R204: FX33 stores the three decimal digits of V[X] at I, I + 1, I + 2, or faults and stores nothing. Decisions of the
spec: D5, D6 and D7 (the memory faults) (log 12). -/
def Obligations.DecimalStore : Prop :=
  ∀ x : Nibble, decodeWord (wordX 0xF033 x) = .ldBVx x ∧
    ∀ s, Memory.wf s.mem →
      (0x200 ≤ s.baseAddr → s.baseAddr + 2 ≤ 0xFFF → ∃ t, exec (.ldBVx x) s = .next t ∧
        (Memory.read t.mem s.baseAddr).toNat = (s.getV x).toNat / 100 ∧
        (Memory.read t.mem (s.baseAddr + 1)).toNat = (s.getV x).toNat / 10 % 10 ∧
        (Memory.read t.mem (s.baseAddr + 2)).toNat = (s.getV x).toNat % 10 ∧
        SameMemoryOutside s t s.baseAddr 3 ∧ Unchanged s t [.memory] ∧ t.pc = s.pc + 2) ∧
      (s.baseAddr < 0x200 → ∃ t, exec (.ldBVx x) s = .next t ∧
        HaltedWith s t (.memoryFault .writeProtected s.baseAddr)) ∧
      (s.baseAddr + 2 > 0xFFF → ∃ t, exec (.ldBVx x) s = .next t ∧
        HaltedWith s t (.memoryFault .write (max s.baseAddr 0x1000)))

/-- R205: FX55 stores V[0] to V[X] at I upward and in legacy mode adds X + 1 to I, or faults and stores nothing.
Decisions of the spec: D5, D6 and D7 (the memory faults) (log 12). -/
def Obligations.RegisterStore : Prop :=
  ∀ x : Nibble, decodeWord (wordX 0xF055 x) = .storeRegs x ∧
    ∀ s, Memory.wf s.mem →
      (0x200 ≤ s.baseAddr → s.baseAddr + x.toNat ≤ 0xFFF → ∃ t, exec (.storeRegs x) s = .next t ∧
        (∀ y : Nibble, y.toNat ≤ x.toNat → Memory.read t.mem (s.baseAddr + y.toNat) = s.getV y) ∧
        SameMemoryOutside s t s.baseAddr (x.toNat + 1) ∧
        t.I.toNat = (if s.mode = .legacy then (s.baseAddr + x.toNat + 1) % 65536 else s.baseAddr) ∧
        Unchanged s t [.memory, .index] ∧ t.pc = s.pc + 2) ∧
      (s.baseAddr < 0x200 → ∃ t, exec (.storeRegs x) s = .next t ∧
        HaltedWith s t (.memoryFault .writeProtected s.baseAddr)) ∧
      (s.baseAddr + x.toNat > 0xFFF → ∃ t, exec (.storeRegs x) s = .next t ∧
        HaltedWith s t (.memoryFault .write (max s.baseAddr 0x1000)))

/-- R206: FX65 loads V[0] to V[X] from I upward and in legacy mode adds X + 1 to I, or faults and loads nothing.
Decisions of the spec: D5 and D7 (the memory faults) (log 12). -/
def Obligations.RegisterLoad : Prop :=
  ∀ x : Nibble, decodeWord (wordX 0xF065 x) = .loadRegs x ∧
    ∀ s,
      (s.baseAddr + x.toNat ≤ 0xFFF → ∃ t, exec (.loadRegs x) s = .next t ∧
        (∀ y : Nibble, t.getV y =
          if y.toNat ≤ x.toNat then Memory.read s.mem (s.baseAddr + y.toNat) else s.getV y) ∧
        t.I.toNat = (if s.mode = .legacy then (s.baseAddr + x.toNat + 1) % 65536 else s.baseAddr) ∧
        Unchanged s t [.registers, .index] ∧ t.pc = s.pc + 2) ∧
      (s.baseAddr + x.toNat > 0xFFF → ∃ t, exec (.loadRegs x) s = .next t ∧
        HaltedWith s t (.memoryFault .read (max s.baseAddr 0x1000)))

/-! ### Display (spec/44_display.md) -/

/-- R220: 00E0 clears every pixel, whatever the buffer held, and reports `DisplayChanged`. -/
def Obligations.ClearZeroesTheDisplay : Prop :=
  decodeWord 0x00E0 = .cls ∧
  (∀ s, ∃ t, exec .cls s = .next t ∧ (∀ px py, Display.pixel t.disp px py = false) ∧
    Unchanged s t [.display] ∧ t.pc = s.pc + 2) ∧
  ∀ s, s.engine = .running → s.fetch = .ok 0x00E0 → (stepReport s).effect = some .displayChanged

/-- R221: DXYN inverts exactly the pixels on which a 1 bit of the sprite falls, with wraparound, and leaves in VF whether
some pixel went from 1 to 0; a sprite that reaches above 0xFFF faults and draws nothing. Decisions of the spec: D5 and D7
(the memory fault) and D19 (bit 7 leftmost) (log 12). -/
def Obligations.DrawInvertsSpritePixels : Prop :=
  ∀ x y n : Nibble, decodeWord (wordXYN 0xD000 x y n) = .drw x y n ∧
    ∀ s,
      (n = 0 ∨ s.baseAddr + n.toNat - 1 ≤ 0xFFF → ∃ t, exec (.drw x y n) s = .next t ∧
        (∀ px py, Display.pixel t.disp px py = (Display.pixel s.disp px py ^^ spriteBit s x y n px py)) ∧
        ((t.getV 0xF = 1 ∧ ∃ px py, Display.pixel s.disp px py = true ∧ Display.pixel t.disp px py = false) ∨
          (t.getV 0xF = 0 ∧ ¬ ∃ px py, Display.pixel s.disp px py = true ∧ Display.pixel t.disp px py = false)) ∧
        SameVBut s t [0xF] ∧ Unchanged s t [.registers, .display] ∧ t.pc = s.pc + 2 ∧
        (s.engine = .running → s.fetch = .ok (wordXYN 0xD000 x y n) →
          (stepReport s).effect = some .displayChanged)) ∧
      (n ≠ 0 → s.baseAddr + n.toNat - 1 > 0xFFF → ∃ t, exec (.drw x y n) s = .next t ∧
        HaltedWith s t (.memoryFault .read (max s.baseAddr 0x1000)))

/-- Derived from 44_display.md (corner cases of DXYN): drawing the same sprite twice at the same place restores the
buffer, and the second draw reports a collision if the first one set a pixel. The coordinates must not lie in VF, which
the first draw overwrites. -/
def Obligations.DrawingTwiceRestoresTheDisplay : Prop :=
  ∀ (x y n : Nibble) (s : State), x ≠ 0xF → y ≠ 0xF → (n = 0 ∨ s.baseAddr + n.toNat - 1 ≤ 0xFFF) →
    ∃ t u, exec (.drw x y n) s = .next t ∧ exec (.drw x y n) t = .next u ∧
      (∀ px py, Display.pixel u.disp px py = Display.pixel s.disp px py) ∧
      ((∃ px py, Display.pixel s.disp px py = false ∧ Display.pixel t.disp px py = true) → u.getV 0xF = 1)

/-! ### Keypad and timers (spec/45_keypad_timers.md) -/

/-- R230, R231, R236: EX9E and EXA1 skip by the latch bit whose number is the low nibble of V[X]. Decisions of the spec:
D16 (the low nibble) (log 12). -/
def Obligations.KeySkipsTestTheLatch : Prop :=
  ∀ x : Nibble, decodeWord (wordX 0xE09E x) = .skp x ∧ decodeWord (wordX 0xE0A1 x) = .sknp x ∧
    ∀ s,
      (∃ t, exec (.skp x) s = .next t ∧
        t.pc = (if s.keys.getLsbD ((s.getV x).toNat % 16) then s.pc + 4 else s.pc + 2) ∧ Unchanged s t []) ∧
      (∃ t, exec (.sknp x) s = .next t ∧
        t.pc = (if s.keys.getLsbD ((s.getV x).toNat % 16) then s.pc + 2 else s.pc + 4) ∧ Unchanged s t [])

/-- R126: FX0A enters the wait: the register number is latched, the engine waits, and nothing else changes, the program
counter neither; the step reports that it waits. Decisions of the spec: D17 (the latch is not looked at) (log 12). -/
def Obligations.KeyWaitEnters : Prop :=
  ∀ x : Nibble, decodeWord (wordX 0xF00A x) = .ldVxK x ∧
    (∀ s, ∃ t, exec (.ldVxK x) s = .next t ∧ t.engine = .waitingForKey ∧ t.waitReg = x ∧ t.err = s.err ∧
      t.pc = s.pc ∧ Unchanged s t [.engine]) ∧
    ∀ s, s.engine = .running → s.fetch = .ok (wordX 0xF00A x) → (stepReport s).kind = .waiting

/-- R127: a `Step` in `WaitingForKey` changes nothing while no key is pressed, and otherwise writes the least pressed key
to the latched register, advances and runs again. Decisions of the spec: D17 (the least key) (log 12). -/
def Obligations.PollTakesTheLeastKey : Prop :=
  ∀ s : State, s.engine = .waitingForKey →
    (s.keys = 0 → stepEvent s = .next s ∧ (stepReport s).kind = .waiting) ∧
    (∀ k : Nibble, s.keys.getLsbD k.toNat = true → (∀ j : Nibble, j.toNat < k.toNat → s.keys.getLsbD j.toNat = false) →
      ∃ t, stepEvent s = .next t ∧ (t.getV s.waitReg).toNat = k.toNat ∧ SameVBut s t [s.waitReg] ∧
        t.pc.toNat = (s.pc.toNat + 2) % 65536 ∧ t.engine = .running ∧ t.waitReg = s.waitReg ∧ t.err = s.err ∧
        Unchanged s t [.registers, .engine] ∧
        (stepReport s).kind = .executed ∧ (stepReport s).op = some (.ldVxK s.waitReg))

/-- R233, R234, R235: FX07 reads the delay timer, FX15 and FX18 write the timers; the tone follows the sound timer at
once. -/
def Obligations.TimerReadsAndWrites : Prop :=
  ∀ x : Nibble, decodeWord (wordX 0xF007 x) = .ldVxDt x ∧ decodeWord (wordX 0xF015 x) = .ldDtVx x ∧
    decodeWord (wordX 0xF018 x) = .ldStVx x ∧
    ∀ s,
      (∃ t, exec (.ldVxDt x) s = .next t ∧ t.getV x = s.dt ∧ SameVBut s t [x] ∧ Unchanged s t [.registers] ∧
        t.pc = s.pc + 2) ∧
      (∃ t, exec (.ldDtVx x) s = .next t ∧ t.dt = s.getV x ∧ t.st = s.st ∧ Unchanged s t [.timers] ∧
        t.pc = s.pc + 2) ∧
      (∃ t, exec (.ldStVx x) s = .next t ∧ t.st = s.getV x ∧ t.dt = s.dt ∧ Unchanged s t [.timers] ∧
        t.pc = s.pc + 2 ∧ (toneOn t = true ↔ (s.getV x).toNat > 0)) ∧
      (s.engine = .running → s.fetch = .ok (wordX 0xF015 x) → (stepReport s).effect = some .delayTimerSet) ∧
      (s.engine = .running → s.fetch = .ok (wordX 0xF018 x) → (stepReport s).effect = some .soundTimerSet)

/-! ### Memory and fetch (spec/20_memory.md) -/

/-- R60: a fetch takes the byte at pc as the high half and the byte at pc + 1 as the low half, and faults above 0xFFE.
Decisions of the spec: D5 (the fault) (log 12). -/
def Obligations.FetchIsBigEndian : Prop :=
  ∀ s : State,
    (s.pc.toNat ≤ 0xFFE → ∃ w, s.fetch = .ok w ∧
      w.toNat = (Memory.read s.mem s.pc.toNat).toNat * 256 + (Memory.read s.mem (s.pc.toNat + 1)).toNat) ∧
    (s.pc.toNat > 0xFFE → s.fetch = .error (.memoryFault .fetch s.pc.toNat))

/-- R62, R63: a data read faults above 0xFFF; a program store faults above 0xFFF and below 0x200, and otherwise writes
that byte and no other, in a memory in its canonical form. Decisions of the spec: D5 and D6 (the faults) (log 12). -/
def Obligations.ByteAccessesAreChecked : Prop :=
  ∀ (s : State) (addr : Nat) (v : Byte),
    (addr > 0xFFF → s.memRead addr = .error (.memoryFault .read addr) ∧
      s.memWrite addr v = .error (.memoryFault .write addr)) ∧
    (addr ≤ 0xFFF → s.memRead addr = .ok (Memory.read s.mem addr)) ∧
    (addr < 0x200 → s.memWrite addr v = .error (.memoryFault .writeProtected addr)) ∧
    (0x200 ≤ addr → addr ≤ 0xFFF → Memory.wf s.mem → ∃ t, s.memWrite addr v = .ok t ∧
      Memory.read t.mem addr = v ∧ SameMemoryOutside s t addr 1 ∧ Unchanged s t [.memory] ∧ t.pc = s.pc ∧
      Memory.wf t.mem)

/-- Derived from 20_memory.md sections 2 and 4 and 43_memory_index.md section 1: the check of a range before any byte of
it is written raises exactly the fault of the first byte store that fails, and after a passed check no byte store fails.
-/
def Obligations.WriteCheckAgreesWithByteStores : Prop :=
  ∀ (s : State) (base : Nat) (bytes : List Byte), bytes ≠ [] →
    s.memWriteEach base bytes =
      match checkWrite base bytes.length with
      | some e => .error e
      | none => .ok (s.setMem (Memory.writeBytes s.mem base bytes))

/-- Derived from 20_memory.md sections 2 and 4 and 43_memory_index.md section 1: the same for a range that is read. -/
def Obligations.ReadCheckAgreesWithByteReads : Prop :=
  ∀ (s : State) (base len : Nat),
    s.memReadEach base len =
      match checkRead base len with
      | some e => .error e
      | none => .ok (Memory.readBytes s.mem base len)

/-- Derived from 20_memory.md section 1: the program counter and the live return addresses stay even as long as no jump
or call goes to an odd address. -/
def Obligations.CodeStaysEven : Prop :=
  ∀ s t : State, s.evenCode → stepEvent s = .next t →
    (∀ w, s.engine = .running → s.fetch = .ok w → ¬ jumpsToOdd (decodeWord w) s) → t.evenCode

/-! ### The execution cycle (spec/40_execution_cycle.md) -/

/-- Derived from 40_execution_cycle.md section 1: a `Step` in `Running` whose bytes at the program counter decode to an
instruction is that instruction's execution, and a step of the machine is that `Step` when the environment's schedule
(the model's own, log 1) names no other event before it. -/
def Obligations.StepRunsTheDecodedInstruction : Prop :=
  ∀ (s : State) (i : Instr), s.engine = .running → s.pc.toNat ≤ 0xFFE →
    decode [Memory.read s.mem s.pc.toNat, Memory.read s.mem (s.pc.toNat + 1)] = .ok (i, []) →
    stepEvent s = exec i s ∧
    (s.inputs = [] → step s = exec i s) ∧
    (∀ es, s.inputs = .step :: es → step s = exec i { s with inputs := es })

/-- Derived from 20_memory.md section 4 and 40_execution_cycle.md section 1: a step of the machine applies exactly one
event, the next of the schedule or a plain `Step` (log 1), and every event finishes. -/
def Obligations.EveryStepAppliesOneEvent : Prop :=
  (∀ s : State, ∃ t, step s = .next t) ∧
  (∀ (s : State) (e : Event) (es : List Event), s.inputs = e :: es → step s = applyEvent e { s with inputs := es }) ∧
  (∀ s : State, s.inputs = [] → step s = stepEvent s)

/-- The model's own (log 10): the word placed by `withFetchWord` is what the very next step runs. -/
def Obligations.PlacedWordRunsNext : Prop :=
  ∀ (s : State) (w : Word), Memory.wf s.mem →
    step (s.withFetchWord 16 w.toNat) = exec (decodeWord w) (s.withFetchWord 16 w.toNat)

/-- Derived from 20_memory.md section 1 and 60_exceptions.md section 1: a `Step` in `Running` with the program counter
above 0xFFE is the fatal fetch fault. -/
def Obligations.FetchAboveTheTopHalts : Prop :=
  ∀ s : State, s.engine = .running → s.pc.toNat > 0xFFE →
    ∃ t, stepEvent s = .next t ∧ HaltedWith s t (.memoryFault .fetch s.pc.toNat) ∧
      stepReport s = ⟨.faulted, none, none, none, some (.fatal (.memoryFault .fetch s.pc.toNat))⟩

/-- R124: an instruction that does not set the program counter itself ends with the default advance, unless it halts. -/
def Obligations.DefaultAdvanceIsTwo : Prop :=
  ∀ (i : Instr) (s t : State), setsPc i = false → exec i s = .next t → t.engine ≠ .halted →
    t.pc.toNat = (s.pc.toNat + 2) % 65536

/-- R128, R129: a `Step` in `Paused` is rejected; in `Halted` `Step`, `SingleStep`, `Pause` and `Resume` change nothing
and `Step` reports the latched error. Decisions of the spec: D32 (the debug events in `Halted`) (log 12). -/
def Obligations.PausedAndHaltedIgnoreStep : Prop :=
  ∀ s : State,
    (s.engine = .paused → applyEvent .step s = .next s ∧ (stepReport s).kind = .rejected) ∧
    (s.engine = .halted →
      applyEvent .step s = .next s ∧ applyEvent .singleStep s = .next s ∧
      applyEvent .pause s = .next s ∧ applyEvent .resume s = .next s ∧
      (stepReport s).kind = .faulted ∧ (stepReport s).error = s.err.map .fatal)

/-- R130, R131: `Pause` pauses a running engine and `Resume` runs a paused one; nothing else changes, and in any other
state they change nothing. The Timer Clock goes on in `Paused`. Decisions of the spec: D23 (no effect elsewhere) (log
12). -/
def Obligations.PauseAndResume : Prop :=
  ∀ s : State,
    (s.engine = .running → ∃ t, applyEvent .pause s = .next t ∧ t.engine = .paused ∧ t.waitReg = s.waitReg ∧
      t.err = s.err ∧ t.pc = s.pc ∧ Unchanged s t [.engine]) ∧
    (s.engine ≠ .running → applyEvent .pause s = .next s) ∧
    (s.engine = .paused → ∃ t, applyEvent .resume s = .next t ∧ t.engine = .running ∧ t.waitReg = s.waitReg ∧
      t.err = s.err ∧ t.pc = s.pc ∧ Unchanged s t [.engine]) ∧
    (s.engine ≠ .paused → applyEvent .resume s = .next s) ∧
    (s.engine = .paused → ∃ t, applyEvent .tick s = .next t ∧ t.dt.toNat = s.dt.toNat - 1 ∧
      t.st.toNat = s.st.toNat - 1)

/-- Derived from 40_execution_cycle.md section 5 (R132): `SingleStep` in `Paused` performs four `Step`s, stops early in
`Halted` and ends in `Paused` otherwise; in any other state it changes nothing and is rejected. Its report is the list of
the sub-steps' reports. That a rejection is a list of one is the model's reading (log 7), and that its fields but `kind`
are none, also `error` in `Halted`, is the model's choice (logs 7 and 15). Decisions of the spec: D22 and D23 (four
steps, no effect elsewhere) (log 12). -/
def Obligations.SingleStepRunsFourSteps : Prop :=
  ∀ s : State,
    (s.engine ≠ .paused → applyEvent .singleStep s = .next s ∧
      singleStepReports s = [⟨.rejected, none, none, none, none⟩]) ∧
    (s.engine = .paused → ∀ s1, stepEvent (s.setEngine .running) = .next s1 →
      (s1.engine = .halted → applyEvent .singleStep s = .next s1 ∧
        singleStepReports s = [stepReport (s.setEngine .running)]) ∧
      (s1.engine ≠ .halted → ∀ s2, stepEvent s1 = .next s2 →
        (s2.engine = .halted → applyEvent .singleStep s = .next s2 ∧
          singleStepReports s = [stepReport (s.setEngine .running), stepReport s1]) ∧
        (s2.engine ≠ .halted → ∀ s3, stepEvent s2 = .next s3 →
          (s3.engine = .halted → applyEvent .singleStep s = .next s3 ∧
            singleStepReports s = [stepReport (s.setEngine .running), stepReport s1, stepReport s2]) ∧
          (s3.engine ≠ .halted → ∀ s4, stepEvent s3 = .next s4 →
            singleStepReports s = [stepReport (s.setEngine .running), stepReport s1, stepReport s2, stepReport s3] ∧
            (s4.engine = .halted → applyEvent .singleStep s = .next s4) ∧
            (s4.engine ≠ .halted → applyEvent .singleStep s = .next (s4.setEngine .paused))))))

/-- Derived from 40_execution_cycle.md section 6 (R133): the transition table of the engine's state, with two events that
are no row of it: `tick_if_due`, which leaves the state as `Tick` does (60_exceptions.md section 5, R266), and
`Construct`, after which the engine runs (70_reset_and_hazards.md section 1, R290). That `Construct` can come in any
engine state, `Halted` among them, is the model's choice (log 13). -/
def Obligations.EngineTransitionTable : Prop :=
  ∀ (e : Event) (s t : State), applyEvent e s = .next t →
    match e with
    | .step =>
      match s.engine with
      | .running =>
        (∃ err, s.fetch = .error err ∧ t.engine = .halted ∧ t.err = some err) ∨
        (∃ w, s.fetch = .ok w ∧
          ((t.engine = .halted ∧ t.err ≠ none) ∨
           (t.engine = .waitingForKey ∧ ∃ x, decodeWord w = .ldVxK x) ∨
           (t.engine = .running ∧ ∀ x, decodeWord w ≠ .ldVxK x)))
      | .waitingForKey => t.engine = if s.keys = 0 then .waitingForKey else .running
      | .paused => t.engine = .paused
      | .halted => t.engine = .halted
    | .pause => t.engine = if s.engine = .running then .paused else s.engine
    | .resume => t.engine = if s.engine = .paused then .running else s.engine
    | .singleStep =>
      if s.engine = .paused then t.engine = .paused ∨ (t.engine = .halted ∧ t.err ≠ none) else t.engine = s.engine
    | .construct _ _ _ | .reset => t.engine = .running
    | .load _ | .tick | .tickIfDue _ | .keyWrite _ | .dumpState => t.engine = s.engine

/-! ### Errors (spec/60_exceptions.md) -/

/-- R250: when a `Step` in `Running` raises a fatal error, the engine is halted with that error latched, nothing else has
changed, and the report says so. Decisions of the spec: D7 (the precision) (log 12). -/
def Obligations.FatalErrorsArePrecise : Prop :=
  ∀ s t : State, s.engine = .running → stepEvent s = .next t → t.engine = .halted →
    ∃ e, HaltedWith s t e ∧ (stepReport s).kind = .faulted ∧ (stepReport s).error = some (.fatal e) ∧
      (∀ w, s.fetch = .ok w → (stepReport s).word = some w ∧ (stepReport s).op = some (decodeWord w)) ∧
      (∀ f, s.fetch = .error f → e = f ∧ (stepReport s).word = none ∧ (stepReport s).op = none)

/-- Derived from 60_exceptions.md sections 1 and 3: which instruction raises which error, and on which operands. -/
def Obligations.ErrorsHaveTheirCauses : Prop :=
  ∀ (i : Instr) (s t : State) (e : FatalError), s.engine ≠ .halted → exec i s = .next t → t.engine = .halted →
    t.err = some e →
    (∃ nnn, i = .call nnn ∧ s.sp.val = 16 ∧ e = .stackOverflow) ∨
    (i = .ret ∧ s.sp.val = 0 ∧ e = .stackUnderflow) ∨
    (∃ x y n, i = .drw x y n ∧ n ≠ 0 ∧ s.baseAddr + n.toNat - 1 > 0xFFF ∧
      e = .memoryFault .read (max s.baseAddr 0x1000)) ∨
    (∃ x, i = .loadRegs x ∧ s.baseAddr + x.toNat > 0xFFF ∧ e = .memoryFault .read (max s.baseAddr 0x1000)) ∨
    (((∃ x, i = .ldBVx x) ∨ ∃ x, i = .storeRegs x) ∧ s.baseAddr < 0x200 ∧
      e = .memoryFault .writeProtected s.baseAddr) ∨
    (((∃ x, i = .ldBVx x ∧ s.baseAddr + 2 > 0xFFF) ∨ ∃ x, i = .storeRegs x ∧ s.baseAddr + x.toNat > 0xFFF) ∧
      0x200 ≤ s.baseAddr ∧ e = .memoryFault .write (max s.baseAddr 0x1000))

/-- R265, R267: a `Tick` decrements both timers, clamped at 0, in every engine state, and changes nothing else. Decisions
of the spec: D24 (every engine state) (log 12). -/
def Obligations.TickDecrementsTimers : Prop :=
  ∀ s : State, ∃ t, applyEvent .tick s = .next t ∧ t.dt.toNat = s.dt.toNat - 1 ∧ t.st.toNat = s.st.toNat - 1 ∧
    (toneOn t = true ↔ s.st.toNat - 1 > 0) ∧ Unchanged s t [.timers] ∧ t.pc = s.pc

/-- Derived from 60_exceptions.md section 5: `tick_if_due(now)` is one `Tick` and `last <- now` when 1/60 s has passed
since `last`, and nothing otherwise. That times are rational seconds is the model's choice (log 6). -/
def Obligations.TickIfDueDecrementsOnce : Prop :=
  ∀ (s : State) (now : Rat),
    (now - s.last ≥ 1 / 60 → ∃ t u, applyEvent .tick s = .next t ∧ applyEvent (.tickIfDue now) s = .next u ∧
      u = { t with last := now }) ∧
    (now - s.last < 1 / 60 → applyEvent (.tickIfDue now) s = .next s)

/-- Derived from 60_exceptions.md section 5: calls of `tick_if_due` within one second after `last`, in any number and any
order, decrement a timer at most 60 times. That times are rational seconds is the model's choice (log 6). -/
def Obligations.AtMostSixtyDecrementsInASecond : Prop :=
  ∀ (times : List Rat) (s : State), (∀ now ∈ times, now ≤ s.last + 1) →
    s.dt.toNat ≤ (tickAll times s).dt.toNat + 60 ∧ s.st.toNat ≤ (tickAll times s).st.toNat + 60

/-! ### Construction, reset and load (spec/70_reset_and_hazards.md) -/

/-- Derived from 70_reset_and_hazards.md section 1 (R291) and 10_state.md section 8 (R34): what `Reset` sets and what it
leaves, in every engine state, and that no event but `Reset` and `Construct` leaves `Halted`. R291 calls `Reset` the only
way out; that `Construct` can come in `Halted` at all is the model's choice (log 13). Decisions of the spec: D25 (what is
left) (log 12). -/
def Obligations.ResetReinitialises : Prop :=
  (∀ (e : Event) (s t : State), s.engine = .halted → applyEvent e s = .next t → t.engine ≠ .halted →
    e = .reset ∨ ∃ mode cpt now, e = .construct mode cpt now) ∧
  ∀ s : State, Memory.wf s.mem → ∃ t, applyEvent .reset s = .next t ∧
    (∀ x, t.getV x = 0) ∧ t.I = 0 ∧ t.pc = 0x200 ∧ t.sp = 0 ∧ (∀ k, t.stackAt k = 0) ∧
    (∀ i, i < 80 → Memory.read t.mem (0x050 + i) = Config.fontData.getD i 0) ∧
    (∀ a, a < 0x050 ∨ 0x0A0 ≤ a → Memory.read t.mem a = Memory.read s.mem a) ∧
    (∀ px py, Display.pixel t.disp px py = false) ∧ t.dt = 0 ∧ t.st = 0 ∧
    t.engine = .running ∧ t.err = none ∧ t.waitReg = 0 ∧ SameOutside s t ∧ toneOn t = false

/-- R292: `Load` writes the image from 0x200 on and nothing else, or refuses an image of more than 3584 bytes and changes
nothing. Decisions of the spec: D27 (no reset, no latch) (log 12). -/
def Obligations.LoadWritesTheImage : Prop :=
  ∀ (s : State) (bytes : List Byte), Memory.wf s.mem →
    (bytes.length > 3584 → applyEvent (.load bytes) s = .next s ∧
      eventReport (.load bytes) s = .load .romTooLarge) ∧
    (bytes.length ≤ 3584 → ∃ t, applyEvent (.load bytes) s = .next t ∧
      eventReport (.load bytes) s = .load .ok ∧
      (∀ i, ∀ h : i < bytes.length, Memory.read t.mem (0x200 + i) = bytes[i]) ∧
      SameMemoryOutside s t 0x200 bytes.length ∧ Unchanged s t [.memory] ∧ t.pc = s.pc)

/-- R290: the value `Construct` gives every piece of state, from any state. Decisions of the spec: D26 and D35 (the zero
fill and `Running`) (log 12). -/
def Obligations.ConstructInitialisesEverything : Prop :=
  ∀ (s : State) (mode : Mode) (cpt : PNat) (now : Rat), ∃ t, applyEvent (.construct mode cpt now) s = .next t ∧
    t.mode = mode ∧ t.cpt = cpt ∧ t.last = now ∧ t.keys = 0 ∧
    (∀ x, t.getV x = 0) ∧ t.I = 0 ∧ t.pc = 0x200 ∧ t.sp = 0 ∧ (∀ k, t.stackAt k = 0) ∧
    (∀ i, i < 80 → Memory.read t.mem (0x050 + i) = Config.fontData.getD i 0) ∧
    (∀ a, a < 0x050 ∨ 0x0A0 ≤ a → Memory.read t.mem a = 0) ∧
    (∀ px py, Display.pixel t.disp px py = false) ∧ t.dt = 0 ∧ t.st = 0 ∧
    t.engine = .running ∧ t.err = none ∧ t.waitReg = 0

/-- Derived from 10_state.md section 8: `KeyWrite` replaces all 16 bits of the latch and changes nothing else. -/
def Obligations.KeyWriteReplacesTheLatch : Prop :=
  ∀ (s : State) (k16 : Word), ∃ t, applyEvent (.keyWrite k16) s = .next t ∧
    (∀ k, k < 16 → t.keys.getLsbD k = k16.getLsbD k) ∧ t = { s with keys := t.keys }

/-! ### Whole-machine rules -/

/-- Every step keeps the invariant: memory in its canonical form, nothing below 0x200 changed since construction, and the
error latch in agreement with the engine's state. Derived from 10_state.md sections 2 and 8 and 20_memory.md sections 2
and 3. -/
def Obligations.EveryStepKeepsTheInvariant : Prop :=
  ∀ s t : State, s.Inv → step s = .next t → t.Inv

/-- The reset state meets the invariant. Derived from 10_state.md section 11. -/
def Obligations.ResetMeetsTheInvariant : Prop := State.reset.Inv

/-- Derived from 10_state.md sections 1 to 9, 20_memory.md sections 2 and 3, 40_execution_cycle.md section 3,
44_display.md, 45_keypad_timers.md and 60_exceptions.md section 1: which instructions write each part of the state but
the program counter when they execute, and that none writes the latch, the mode flag, the configuration or the Timer
Clock's time. The poll that completes FX0A is no execution of an instruction here. The count of draws is the model's own
field (log 2). -/
def Obligations.InstructionsWriteOnlyTheirParts : Prop :=
  ∀ (i : Instr) (s t : State), exec i s = .next t →
    SameOutside s t ∧
    (∀ y, t.getV y ≠ s.getV y → destination i = some y ∨ (writesFlag i = true ∧ y = 0xF) ∨
      ∃ x, i = .loadRegs x ∧ y.toNat ≤ x.toNat) ∧
    (¬ Part.display.same s t → i = .cls ∨ ∃ x y n, i = .drw x y n) ∧
    (¬ Part.index.same s t →
      (∃ nnn, i = .ldI nnn) ∨ (∃ x, i = .addIVx x) ∨ (∃ x, i = .ldFVx x) ∨
      (s.mode = .legacy ∧ ((∃ x, i = .storeRegs x) ∨ ∃ x, i = .loadRegs x))) ∧
    (¬ Part.memory.same s t → (∃ x, i = .ldBVx x) ∨ ∃ x, i = .storeRegs x) ∧
    (t.sp ≠ s.sp → i = .ret ∨ ∃ nnn, i = .call nnn) ∧
    ((∃ k, t.stackAt k ≠ s.stackAt k) → ∃ nnn, i = .call nnn) ∧
    (t.dt ≠ s.dt → ∃ x, i = .ldDtVx x) ∧
    (t.st ≠ s.st → ∃ x, i = .ldStVx x) ∧
    (t.engine ≠ s.engine →
      (t.engine = .waitingForKey ∧ ∃ x, i = .ldVxK x) ∨ (t.engine = .halted ∧ canFault i = true)) ∧
    (t.err ≠ s.err → t.err ≠ none ∧ t.engine = .halted ∧ canFault i = true) ∧
    (t.waitReg ≠ s.waitReg → ∃ x, i = .ldVxK x) ∧
    (t.draws ≠ s.draws → ∃ x nn, i = .rnd x nn)

/-- Derived from 10_state.md section 8: only `Construct` changes the mode flag and `cpt`, only `KeyWrite` and `Construct`
the latch, only `tick_if_due` and `Construct` the Timer Clock's time, whatever the step. That `Construct` can be the
event of any step is the model's choice (log 13). -/
def Obligations.OnlyEventsChangeTheConfiguration : Prop :=
  ∀ s t : State, step s = .next t →
    (t.mode ≠ s.mode ∨ t.cpt ≠ s.cpt → ∃ m c n, nextEvent s = .construct m c n) ∧
    (t.keys ≠ s.keys → (∃ k, nextEvent s = .keyWrite k) ∨ ∃ m c n, nextEvent s = .construct m c n) ∧
    (t.last ≠ s.last → (∃ now, nextEvent s = .tickIfDue now) ∨ ∃ m c n, nextEvent s = .construct m c n)

/-- Derived from 10_state.md section 9: the execution of an instruction changes VF only if the instruction writes it as a
flag or names it as a destination. The poll that completes FX0A is no execution of an instruction here. -/
def Obligations.FlagHasNoOtherWriters : Prop :=
  ∀ (i : Instr) (s t : State), exec i s = .next t → t.getV 0xF ≠ s.getV 0xF →
    writesFlag i = true ∨ destination i = some 0xF

/-- Derived from 10_state.md section 8: the mode flag affects exactly the two shifts, FX55 and FX65: every other
instruction does the same under either value of it, and each of the four does not. -/
def Obligations.ModeAffectsExactlyFourInstructions : Prop :=
  (∀ (i : Instr) (s t : State) (m : Mode), usesMode i = false → exec i s = .next t →
    exec i { s with mode := m } = .next { t with mode := m }) ∧
  (∃ (s t u : State), exec (.shr 1 2) { s with mode := .legacy } = .next t ∧
    exec (.shr 1 2) { s with mode := .chip48 } = .next u ∧ t.getV 1 ≠ u.getV 1) ∧
  (∃ (s t u : State), exec (.shl 1 2) { s with mode := .legacy } = .next t ∧
    exec (.shl 1 2) { s with mode := .chip48 } = .next u ∧ t.getV 1 ≠ u.getV 1) ∧
  (∃ (s t u : State), exec (.storeRegs 1) { s with mode := .legacy } = .next t ∧
    exec (.storeRegs 1) { s with mode := .chip48 } = .next u ∧ t.I ≠ u.I) ∧
  (∃ (s t u : State), exec (.loadRegs 1) { s with mode := .legacy } = .next t ∧
    exec (.loadRegs 1) { s with mode := .chip48 } = .next u ∧ t.I ≠ u.I)

/-- Derived from 10_state.md section 8 and 40_execution_cycle.md sections 1 and 3: the execution of an instruction other
than EX9E and EXA1, FX0A's entry to the wait among them, does the same whatever the latch holds, and so does every `Step`
but one that executes EX9E or EXA1 and one that polls for FX0A, which is the only other reader of the latch. -/
def Obligations.LatchIsReadOnlyByKeyTestsAndPoll : Prop :=
  (∀ (i : Instr) (s t : State) (k : Word), readsKeys i = false → exec i s = .next t →
    exec i { s with keys := k } = .next { t with keys := k }) ∧
  (∀ (s t : State) (k : Word), s.engine ≠ .waitingForKey →
    (s.engine = .running → ∀ w, s.fetch = .ok w → readsKeys (decodeWord w) = false) → stepEvent s = .next t →
    stepEvent { s with keys := k } = .next { t with keys := k })

/-- Derived from 10_state.md section 10 (R44's table, with the details of log 7): the step report of every engine state.
-/
def Obligations.StepReportFields : Prop :=
  ∀ s : State,
    (s.engine = .paused → stepReport s = ⟨.rejected, none, none, none, none⟩) ∧
    (s.engine = .halted → stepReport s = ⟨.faulted, none, none, none, s.err.map .fatal⟩) ∧
    (s.engine = .waitingForKey → s.keys = 0 → stepReport s = ⟨.waiting, none, none, none, none⟩) ∧
    (s.engine = .waitingForKey → s.keys ≠ 0 → stepReport s = ⟨.executed, none, some (.ldVxK s.waitReg), none, none⟩) ∧
    (s.engine = .running → ∀ e, s.fetch = .error e → stepReport s = ⟨.faulted, none, none, none, some (.fatal e)⟩) ∧
    (s.engine = .running → ∀ w t, s.fetch = .ok w → stepEvent s = .next t →
      (stepReport s).word = some w ∧ (stepReport s).op = some (decodeWord w) ∧
      (t.engine = .halted → (stepReport s).kind = .faulted ∧ (stepReport s).effect = none ∧
        (stepReport s).error = t.err.map .fatal) ∧
      (t.engine = .waitingForKey → (stepReport s).kind = .waiting ∧ (stepReport s).effect = none ∧
        (stepReport s).error = none) ∧
      (t.engine = .running → (stepReport s).kind = .executed ∧
        ((stepReport s).effect = some .displayChanged ↔
          decodeWord w = .cls ∨ ∃ x y n, decodeWord w = .drw x y n) ∧
        ((stepReport s).effect = some .delayTimerSet ↔ ∃ x, decodeWord w = .ldDtVx x) ∧
        ((stepReport s).effect = some .soundTimerSet ↔ ∃ x, decodeWord w = .ldStVx x) ∧
        (stepReport s).error = if decodeWord w = .unknown w then some (.unknownOpcode w) else none))

/-! ### Decoding (spec/30_encoding.md) -/

/-- Derived from 30_encoding.md sections 1 to 3: the bytes of every well-formed instruction decode to it, with every
operand at every value, and what follows them is left. -/
def Obligations.DecodeOfEncodeIsTheInstruction : Prop :=
  ∀ (i : Instr) (rest : List Byte), WellFormed i → decode (encodeBytes i ++ rest) = .ok (i, rest)

/-- Derived from 30_encoding.md sections 1 to 4: every word decodes to a well-formed instruction whose word it is, so a
word has one meaning and no bit of it is lost. -/
def Obligations.EncodeOfDecodeIsTheWord : Prop :=
  ∀ w : Word, WellFormed (decodeWord w) ∧ encode (decodeWord w) = w

/-- R96: the two-level switch by primary nibble gives for every word what the table of masks gives. -/
def Obligations.SwitchAgreesWithTable : Prop := ∀ w : Word, decodeSwitch w = decodeWord w

/-- Derived from 30_encoding.md section 4: the words that decode to `Unknown(w)` are exactly those of its table. -/
def Obligations.UnknownWordsAreTheListedOnes : Prop :=
  ∀ w : Word, decodeWord w = .unknown w ↔ isUnknownWord w = true

/-- Derived from 30_encoding.md section 3: the only overlap of the opcode map is that 00E0 and 00EE also match the row
SYS, which stands after them. -/
def Obligations.RowsOverlapOnlyInSys : Prop :=
  ∀ (w : Word) (j k : Nat) (r q : OpcodeRow), opcodeRows[j]? = some r → opcodeRows[k]? = some q → j < k →
    r.selects w = true → q.selects w = true →
    (w = 0x00E0 ∧ r.mnemonic = "CLS" ∨ w = 0x00EE ∧ r.mnemonic = "RET") ∧ q.mnemonic = "SYS"

/-- Derived from 30_encoding.md: a few words of the opcode map, written out bit by bit. -/
def Obligations.SampleWordsDecode : Prop :=
  decodeWord 0b0000000011100000 = .cls ∧
  decodeWord 0b0010001011110000 = .call 0x2F0 ∧
  decodeWord 0b0110101000101011 = .ldImm 0xA 0x2B ∧
  decodeWord 0b1000000100100110 = .shr 1 2 ∧
  decodeWord 0b1101010110100011 = .drw 5 0xA 3 ∧
  decodeWord 0b1110000110100001 = .sknp 1 ∧
  decodeWord 0b1111001001010101 = .storeRegs 2 ∧
  decodeWord 0b0101000100100001 = .unknown 0x5121
end

