-- ==== Sys2Proof/Laws/Display.lean ====
section
/-! SUPPORT. What a draw does to each pixel: the loops of spec/44_display.md R221 invert exactly the pixels the sprite
covers, and report a hit exactly when one of them was 1. -/

namespace Sys2Proof.Machine

/-- A pixel reads as it was written, every other pixel as before. -/
theorem Display.pixel_setPixel (d : Display) (x x' : Fin 64) (y y' : Fin 32) (b : Bool) :
    Display.pixel (Display.setPixel d x y b) x' y' = if x = x' ∧ y = y' then b else Display.pixel d x' y' := by
  simp only [Display.pixel, Display.setPixel, Vector.getElem_set, Fin.ext_iff]
  by_cases hy : y.val = y'.val
  · simp only [hy, if_true, and_true, Vector.getElem_set]
  · simp [hy]

@[simp] theorem Display.pixel_clear (x : Fin 64) (y : Fin 32) : Display.pixel Display.clear x y = false := by
  simp [Display.pixel, Display.clear]

/-- One sprite bit (44_display.md R221). -/
theorem Canvas.draw_spec (k : Canvas) (bit : Bool) (x x' : Fin 64) (y y' : Fin 32) :
    Display.pixel (k.draw bit x y).disp x' y' =
        (Display.pixel k.disp x' y' ^^ (bit && decide (x = x' ∧ y = y'))) ∧
      (k.draw bit x y).hit = (k.hit || (bit && Display.pixel k.disp x y)) := by
  rw [Canvas.draw]
  cases bit with
  | false => simp
  | true =>
    by_cases h : x = x' ∧ y = y'
    · obtain ⟨rfl, rfl⟩ := h
      simp [Display.pixel_setPixel]
    · simp [Display.pixel_setPixel, h]

/-- The columns of one sprite row are distinct: eight of 64. -/
theorem column_inj {v : Byte} {c c' : Nat} (hc : c < 8) (hc' : c' < 8) (h : column v c = column v c') : c = c' := by
  have h := congrArg Fin.val h
  simp only [column, Fin.ofNat] at h
  omega

/-- The rows of one sprite are distinct: at most 15 of 32. -/
theorem row_inj {v : Byte} {r r' : Nat} (hr : r < 32) (hr' : r' < 32) (h : row v r = row v r') : r = r' := by
  have h := congrArg Fin.val h
  simp only [row, Fin.ofNat] at h
  omega

/-- Whether a sprite byte has a 1 bit, among its columns from `c` on, `n` of them, that falls on a display column. -/
def rowCovers (vx : Byte) (b : Byte) (c n : Nat) (x : Fin 64) : Prop :=
  ∃ j, c ≤ j ∧ j < c + n ∧ b.getLsbD (7 - j) = true ∧ column vx j = x

/-- One sprite row (44_display.md R221). -/
theorem Canvas.drawRow_spec (vx : Byte) (y : Fin 32) (b : Byte) (n : Nat) :
    ∀ (c : Nat) (k : Canvas), c + n ≤ 8 →
      (∀ x' y', (Display.pixel (Canvas.drawRow vx y b c n k).disp x' y' ≠ Display.pixel k.disp x' y') ↔
        (y = y' ∧ rowCovers vx b c n x')) ∧
      ((Canvas.drawRow vx y b c n k).hit = true ↔
        (k.hit = true ∨ ∃ x', rowCovers vx b c n x' ∧ Display.pixel k.disp x' y = true)) := by
  induction n with
  | zero =>
    intro c k _
    have hf : ∀ x', ¬ rowCovers vx b c 0 x' := fun x' ⟨j, h1, h2, _⟩ => by omega
    exact ⟨fun x' y' => by simp [Canvas.drawRow, hf], by simp [Canvas.drawRow, hf]⟩
  | succ n ih =>
    intro c k hcn
    obtain ⟨ihp, ihh⟩ := ih (c + 1) (k.draw (b.getLsbD (7 - c)) (column vx c) y) (by omega)
    have hsplit : ∀ x', rowCovers vx b c (n + 1) x' ↔
        ((b.getLsbD (7 - c) = true ∧ column vx c = x') ∨ rowCovers vx b (c + 1) n x') := by
      intro x'
      constructor
      · rintro ⟨j, h1, h2, h3, h4⟩
        by_cases hj : j = c
        · subst hj; exact .inl ⟨h3, h4⟩
        · exact .inr ⟨j, by omega, by omega, h3, h4⟩
      · rintro (⟨h3, h4⟩ | ⟨j, h1, h2, h3, h4⟩)
        · exact ⟨c, by omega, by omega, h3, h4⟩
        · exact ⟨j, by omega, by omega, h3, h4⟩
    have hdisj : ∀ x', column vx c = x' → ¬ rowCovers vx b (c + 1) n x' := by
      rintro x' rfl ⟨j, h1, h2, _, h4⟩
      have := column_inj (by omega) (by omega) h4
      omega
    constructor
    · intro x' y'
      have h1 := ihp x' y'
      have h2 := (Canvas.draw_spec k (b.getLsbD (7 - c)) (column vx c) x' y y').1
      rw [Canvas.drawRow, hsplit]
      by_cases hy : y = y'
      · subst hy
        by_cases hx : column vx c = x'
        · subst hx
          have := hdisj _ rfl
          simp only [this, and_false, iff_false, not_not, and_self, decide_true, Bool.and_true] at h1 h2
          rw [h1, h2]
          cases hb : b.getLsbD (7 - c) <;> simp [this]
        · simp only [hx, false_and, decide_false, Bool.and_false, Bool.xor_false] at h2
          rw [h2] at h1
          simpa [hx] using h1
      · simp only [hy, and_false, decide_false, Bool.and_false, Bool.xor_false] at h2
        rw [h2] at h1
        simpa [hy] using h1
    · have h2 := (Canvas.draw_spec k (b.getLsbD (7 - c)) (column vx c) (column vx c) y y).2
      rw [Canvas.drawRow, ihh, h2]
      simp only [hsplit, Bool.or_eq_true, Bool.and_eq_true]
      constructor
      · rintro ((h | ⟨hb, hp⟩) | ⟨x', hc, hp⟩)
        · exact .inl h
        · exact .inr ⟨_, .inl ⟨hb, rfl⟩, hp⟩
        · refine .inr ⟨x', .inr hc, ?_⟩
          have hne : column vx c ≠ x' := fun h => hdisj x' h hc
          have := (Canvas.draw_spec k (b.getLsbD (7 - c)) (column vx c) x' y y).1
          rw [this] at hp
          simpa [hne] using hp
      · rintro (h | ⟨x', (⟨hb, rfl⟩ | hc), hp⟩)
        · exact .inl (.inl h)
        · exact .inl (.inr ⟨hb, hp⟩)
        · refine .inr ⟨x', hc, ?_⟩
          have hne : column vx c ≠ x' := fun h => hdisj x' h hc
          rw [(Canvas.draw_spec k (b.getLsbD (7 - c)) (column vx c) x' y y).1]
          simpa [hne] using hp

/-- Whether a sprite, its rows numbered from `r` on, has a 1 bit that falls on a pixel. -/
def spriteCovers (vx vy : Byte) (r : Nat) (sprite : List Byte) (x : Fin 64) (y : Fin 32) : Prop :=
  ∃ j, ∃ h : j < sprite.length, row vy (r + j) = y ∧ rowCovers vx sprite[j] 0 8 x

theorem spriteCovers_nil (vx vy : Byte) (r : Nat) (x : Fin 64) (y : Fin 32) : ¬ spriteCovers vx vy r [] x y := by
  rintro ⟨j, h, _⟩; simp at h

theorem spriteCovers_cons (vx vy : Byte) (r : Nat) (b : Byte) (bs : List Byte) (x : Fin 64) (y : Fin 32) :
    spriteCovers vx vy r (b :: bs) x y ↔
      (row vy r = y ∧ rowCovers vx b 0 8 x) ∨ spriteCovers vx vy (r + 1) bs x y := by
  constructor
  · rintro ⟨j, h, h1, h2⟩
    cases j with
    | zero => exact .inl ⟨h1, h2⟩
    | succ j => exact .inr ⟨j, by simpa using h, by rw [← h1]; congr 1; omega, h2⟩
  · rintro (⟨h1, h2⟩ | ⟨j, h, h1, h2⟩)
    · exact ⟨0, by simp, h1, h2⟩
    · exact ⟨j + 1, by simpa using h, by rw [← h1]; congr 1; omega, h2⟩

/-- All rows of a sprite (44_display.md R221): a pixel changes exactly when the sprite covers it, and a hit is exactly a
covered pixel that was 1. -/
theorem Canvas.drawRows_spec (vx vy : Byte) (bs : List Byte) :
    ∀ (r : Nat) (k : Canvas), r + bs.length ≤ 32 →
      (∀ x y, (Display.pixel (Canvas.drawRows vx vy r bs k).disp x y ≠ Display.pixel k.disp x y) ↔
        spriteCovers vx vy r bs x y) ∧
      ((Canvas.drawRows vx vy r bs k).hit = true ↔
        (k.hit = true ∨ ∃ x y, spriteCovers vx vy r bs x y ∧ Display.pixel k.disp x y = true)) := by
  induction bs with
  | nil =>
    intro r k _
    exact ⟨fun x y => by simp [Canvas.drawRows, spriteCovers_nil], by simp [Canvas.drawRows, spriteCovers_nil]⟩
  | cons b bs ih =>
    intro r k hr
    simp only [List.length_cons] at hr
    obtain ⟨ihp, ihh⟩ := ih (r + 1) (Canvas.drawRow vx (row vy r) b 0 8 k) (by omega)
    obtain ⟨rp, rh⟩ := Canvas.drawRow_spec vx (row vy r) b 8 0 k (by omega)
    have hdisj : ∀ x y, row vy r = y → ¬ spriteCovers vx vy (r + 1) bs x y := by
      rintro x y rfl ⟨j, h, h1, _⟩
      have := row_inj (by omega) (by omega) h1
      omega
    have hkeep : ∀ x y, spriteCovers vx vy (r + 1) bs x y →
        Display.pixel (Canvas.drawRow vx (row vy r) b 0 8 k).disp x y = Display.pixel k.disp x y := by
      intro x y hc
      by_contra hne
      exact hdisj x y ((rp x y).mp hne).1 hc
    constructor
    · intro x y
      rw [Canvas.drawRows, spriteCovers_cons]
      by_cases hc : spriteCovers vx vy (r + 1) bs x y
      · simp only [hc, or_true, iff_true]
        rw [← hkeep x y hc]
        exact (ihp x y).mpr hc
      · have := not_not.mp (mt (ihp x y).mp hc)
        rw [this, rp x y]
        simp [hc]
    · rw [Canvas.drawRows, ihh, rh]
      simp only [spriteCovers_cons]
      constructor
      · rintro ((h | ⟨x, h1, h2⟩) | ⟨x, y, h1, h2⟩)
        · exact .inl h
        · exact .inr ⟨x, row vy r, .inl ⟨rfl, h1⟩, h2⟩
        · exact .inr ⟨x, y, .inr h1, by rw [← hkeep x y h1]; exact h2⟩
      · rintro (h | ⟨x, y, (⟨rfl, h1⟩ | h1), h2⟩)
        · exact .inl (.inl h)
        · exact .inl (.inr ⟨x, h1, h2⟩)
        · exact .inr ⟨x, y, h1, by rw [hkeep x y h1]; exact h2⟩

end Sys2Proof.Machine
end

