-- ==== Sys2Proof/Laws/Memory.lean ====
section
/-! SUPPORT. Memory keeps its canonical form, a byte reads as it was last written, and a checked range is exactly what the
byte accesses accept. -/

namespace Sys2Proof.Machine

theorem Memory.wf_nil : Memory.wf [] := by simp [Memory.wf]

theorem Memory.wf_tail {c : Host.Cell} {m : Memory} (h : Memory.wf (c :: m)) : Memory.wf m :=
  ⟨(List.pairwise_cons.mp h.1).2, fun d hd => h.2 d (List.mem_cons_of_mem _ hd)⟩

/-- An address below every listed one reads as the reset content. -/
theorem Memory.read_of_lt {m : Memory} {a : Nat} (h : ∀ c ∈ m, a < c.1) : Memory.read m a = Config.resetByte a := by
  induction m with
  | nil => rfl
  | cons c m ih =>
    have hc := h c (by simp)
    rw [Memory.read, if_neg (by omega)]
    exact ih fun d hd => h d (List.mem_cons_of_mem _ hd)

@[simp] theorem Memory.read_cons_same {m : Memory} {a : Nat} (h : ∀ c ∈ m, a < c.1) (v : Byte) :
    Memory.read (Memory.cons a v m) a = v := by
  rw [Memory.cons]; split
  · rw [Memory.read_of_lt h]; exact Eq.symm ‹_›
  · simp [Memory.read]

theorem Memory.read_cons_ne (m : Memory) {a b : Nat} (v : Byte) (h : b ≠ a) :
    Memory.read (Memory.cons a v m) b = Memory.read m b := by
  rw [Memory.cons]; split
  · rfl
  · simp [Memory.read, Ne.symm h]

theorem Memory.wf_cons {m : Memory} {a : Nat} (v : Byte) (hm : Memory.wf m) (ha : a < Config.memSize)
    (h : ∀ c ∈ m, a < c.1) : Memory.wf (Memory.cons a v m) := by
  rw [Memory.cons]; split
  · exact hm
  · refine ⟨List.pairwise_cons.mpr ⟨h, hm.1⟩, fun c hc => ?_⟩
    rcases List.mem_cons.mp hc with rfl | hc
    · exact ⟨ha, ‹_›⟩
    · exact hm.2 c hc

theorem Memory.mem_cons_imp {m : Memory} {a : Nat} {v : Byte} {c : Host.Cell} (h : c ∈ Memory.cons a v m) :
    c.1 = a ∨ c ∈ m := by
  rw [Memory.cons] at h; split at h
  · exact .inr h
  · rcases List.mem_cons.mp h with rfl | h
    · exact .inl rfl
    · exact .inr h

theorem Memory.mem_write_imp {m : Memory} {a : Nat} {v : Byte} {c : Host.Cell} (h : c ∈ Memory.write m a v) :
    c.1 = a ∨ c ∈ m := by
  induction m with
  | nil => exact Memory.mem_cons_imp h
  | cons d m ih =>
    obtain ⟨k, u⟩ := d
    rw [Memory.write] at h
    split at h
    · exact Memory.mem_cons_imp h
    · split at h
      · rcases Memory.mem_cons_imp h with h | h
        · exact .inl h
        · exact .inr (List.mem_cons_of_mem _ h)
      · rcases List.mem_cons.mp h with rfl | h
        · exact .inr (by simp)
        · rcases ih h with h | h
          · exact .inl h
          · exact .inr (List.mem_cons_of_mem _ h)

/-- A write keeps the canonical form. -/
theorem Memory.wf_write {m : Memory} {a : Nat} (v : Byte) (hm : Memory.wf m) (ha : a < Config.memSize) :
    Memory.wf (Memory.write m a v) := by
  induction m with
  | nil => exact Memory.wf_cons v hm ha (by simp)
  | cons d m ih =>
    obtain ⟨k, u⟩ := d
    have hk := (List.pairwise_cons.mp hm.1).1
    rw [Memory.write]
    split
    · refine Memory.wf_cons v hm ha fun c hc => ?_
      rcases List.mem_cons.mp hc with rfl | hc
      · assumption
      · have := hk c hc; simp only at this; omega
    · split
      · subst_vars
        exact Memory.wf_cons v (Memory.wf_tail hm) ha hk
      · refine ⟨List.pairwise_cons.mpr ⟨fun c hc => ?_, (ih (Memory.wf_tail hm)).1⟩, fun c hc => ?_⟩
        · rcases Memory.mem_write_imp hc with h | h
          · simp only; omega
          · exact hk c h
        · rcases List.mem_cons.mp hc with rfl | hc
          · exact hm.2 _ (by simp)
          · exact (ih (Memory.wf_tail hm)).2 c hc

/-- A byte reads as it was written. -/
theorem Memory.read_write_same {m : Memory} (hm : Memory.wf m) (a : Nat) (v : Byte) :
    Memory.read (Memory.write m a v) a = v := by
  induction m with
  | nil => exact Memory.read_cons_same (by simp) v
  | cons d m ih =>
    obtain ⟨k, u⟩ := d
    have hk := (List.pairwise_cons.mp hm.1).1
    rw [Memory.write]
    split
    · refine Memory.read_cons_same (fun c hc => ?_) v
      rcases List.mem_cons.mp hc with rfl | hc
      · assumption
      · have := hk c hc; simp only at this; omega
    · split
      · subst_vars; exact Memory.read_cons_same hk v
      · rw [Memory.read, if_neg (by omega)]
        exact ih (Memory.wf_tail hm)

/-- A write leaves every other byte alone. -/
theorem Memory.read_write_ne (m : Memory) {a b : Nat} (v : Byte) (h : b ≠ a) :
    Memory.read (Memory.write m a v) b = Memory.read m b := by
  induction m with
  | nil => exact Memory.read_cons_ne [] v h
  | cons d m ih =>
    obtain ⟨k, u⟩ := d
    rw [Memory.write]
    split
    · exact Memory.read_cons_ne _ v h
    · split
      · subst_vars
        rw [Memory.read_cons_ne _ v h, Memory.read, if_neg (Ne.symm h)]
      · rw [Memory.read, Memory.read, ih]

theorem Memory.wf_writeBytes (bs : List Byte) {m : Memory} {a : Nat} (hm : Memory.wf m)
    (ha : a + bs.length ≤ Config.memSize) : Memory.wf (Memory.writeBytes m a bs) := by
  induction bs generalizing m a with
  | nil => exact hm
  | cons b bs ih =>
    simp only [List.length_cons] at ha
    exact ih (Memory.wf_write b hm (by omega)) (by omega)

/-- Every byte outside the written range reads as before. -/
theorem Memory.read_writeBytes_outside (bs : List Byte) (m : Memory) {a b : Nat} (h : b < a ∨ a + bs.length ≤ b) :
    Memory.read (Memory.writeBytes m a bs) b = Memory.read m b := by
  induction bs generalizing m a with
  | nil => rfl
  | cons c bs ih =>
    simp only [List.length_cons] at h
    rw [Memory.writeBytes, ih _ (by omega), Memory.read_write_ne _ _ (by omega)]

/-- The written bytes read as they were written. -/
theorem Memory.read_writeBytes_inside (bs : List Byte) {m : Memory} {a : Nat} (hm : Memory.wf m)
    (ha : a + bs.length ≤ Config.memSize) (k : Nat) (hk : k < bs.length) :
    Memory.read (Memory.writeBytes m a bs) (a + k) = bs[k] := by
  induction bs generalizing m a k with
  | nil => simp at hk
  | cons b bs ih =>
    simp only [List.length_cons] at ha hk
    rw [Memory.writeBytes]
    cases k with
    | zero =>
      rw [Memory.read_writeBytes_outside _ _ (by omega)]
      exact Memory.read_write_same hm a b
    | succ k =>
      have := ih (m := Memory.write m a b) (a := a + 1) (Memory.wf_write b hm (by omega)) (by omega) k (by omega)
      rw [List.getElem_cons_succ, ← this]; congr 1; omega

@[simp] theorem Memory.length_readBytes (m : Memory) (a n : Nat) : (Memory.readBytes m a n).length = n := by
  induction n generalizing a with
  | zero => rfl
  | succ n ih => simp [Memory.readBytes, ih]

/-- The bytes of a range are the bytes at its addresses, in order. -/
theorem Memory.getElem_readBytes (m : Memory) (a n k : Nat) (h : k < (Memory.readBytes m a n).length) :
    (Memory.readBytes m a n)[k] = Memory.read m (a + k) := by
  induction n generalizing a k with
  | zero => simp [Memory.readBytes] at h
  | succ n ih =>
    cases k with
    | zero => rfl
    | succ k =>
      simp only [Memory.readBytes, List.getElem_cons_succ]
      rw [ih]; congr 1; omega

/-- What a passed write check says (43_memory_index.md R200). -/
theorem checkWrite_eq_none {base len : Nat} :
    checkWrite base len = none ↔ 0x200 ≤ base ∧ base + len - 1 ≤ 0xFFF := by
  rw [checkWrite]; split
  · simp; omega
  · split <;> simp <;> omega

/-- What a passed read check says (43_memory_index.md R200). -/
theorem checkRead_eq_none {base len : Nat} :
    checkRead base len = none ↔ (0 < len → base + len - 1 ≤ 0xFFF) := by
  rw [checkRead]; split <;> simp <;> omega

/-- What an instruction with one check can do (20_memory.md R76). -/
theorem guarded_cases (c : Option FatalError) (s t : State) :
    (∃ e, c = some e ∧ guarded c s t = .next (s.halt e)) ∨ (c = none ∧ guarded c s t = .next t) := by
  cases c with
  | none => exact .inr ⟨rfl, rfl⟩
  | some e => exact .inl ⟨e, rfl, rfl⟩

end Sys2Proof.Machine
end

