-- ==== Sys2Proof/Laws/State.lean ====
section
/-! SUPPORT. The fields of a state after each named update, one lemma each, and the reads that an update leaves alone. -/

namespace Sys2Proof.Machine

variable (s : State)

@[simp] theorem State.setI_V (v : Word) : (s.setI v).V = s.V := rfl
@[simp] theorem State.setI_I (v : Word) : (s.setI v).I = v := rfl
@[simp] theorem State.setI_pc (v : Word) : (s.setI v).pc = s.pc := rfl
@[simp] theorem State.setI_stack (v : Word) : (s.setI v).stack = s.stack := rfl
@[simp] theorem State.setI_sp (v : Word) : (s.setI v).sp = s.sp := rfl
@[simp] theorem State.setI_dt (v : Word) : (s.setI v).dt = s.dt := rfl
@[simp] theorem State.setI_st (v : Word) : (s.setI v).st = s.st := rfl
@[simp] theorem State.setI_disp (v : Word) : (s.setI v).disp = s.disp := rfl
@[simp] theorem State.setI_mem (v : Word) : (s.setI v).mem = s.mem := rfl
@[simp] theorem State.setI_keys (v : Word) : (s.setI v).keys = s.keys := rfl
@[simp] theorem State.setI_mode (v : Word) : (s.setI v).mode = s.mode := rfl
@[simp] theorem State.setI_engine (v : Word) : (s.setI v).engine = s.engine := rfl
@[simp] theorem State.setI_waitReg (v : Word) : (s.setI v).waitReg = s.waitReg := rfl
@[simp] theorem State.setI_err (v : Word) : (s.setI v).err = s.err := rfl
@[simp] theorem State.setI_cpt (v : Word) : (s.setI v).cpt = s.cpt := rfl
@[simp] theorem State.setI_last (v : Word) : (s.setI v).last = s.last := rfl
@[simp] theorem State.setI_draws (v : Word) : (s.setI v).draws = s.draws := rfl
@[simp] theorem State.setI_inputs (v : Word) : (s.setI v).inputs = s.inputs := rfl
@[simp] theorem State.getV_setI (v : Word) (y : Nibble) : (s.setI v).getV y = s.getV y := rfl
@[simp] theorem State.stackAt_setI (v : Word) (k : Fin 16) : (s.setI v).stackAt k = s.stackAt k := rfl

@[simp] theorem State.setRegs_V (v : Vector Byte 16) : (s.setRegs v).V = v := rfl
@[simp] theorem State.setRegs_I (v : Vector Byte 16) : (s.setRegs v).I = s.I := rfl
@[simp] theorem State.setRegs_pc (v : Vector Byte 16) : (s.setRegs v).pc = s.pc := rfl
@[simp] theorem State.setRegs_stack (v : Vector Byte 16) : (s.setRegs v).stack = s.stack := rfl
@[simp] theorem State.setRegs_sp (v : Vector Byte 16) : (s.setRegs v).sp = s.sp := rfl
@[simp] theorem State.setRegs_dt (v : Vector Byte 16) : (s.setRegs v).dt = s.dt := rfl
@[simp] theorem State.setRegs_st (v : Vector Byte 16) : (s.setRegs v).st = s.st := rfl
@[simp] theorem State.setRegs_disp (v : Vector Byte 16) : (s.setRegs v).disp = s.disp := rfl
@[simp] theorem State.setRegs_mem (v : Vector Byte 16) : (s.setRegs v).mem = s.mem := rfl
@[simp] theorem State.setRegs_keys (v : Vector Byte 16) : (s.setRegs v).keys = s.keys := rfl
@[simp] theorem State.setRegs_mode (v : Vector Byte 16) : (s.setRegs v).mode = s.mode := rfl
@[simp] theorem State.setRegs_engine (v : Vector Byte 16) : (s.setRegs v).engine = s.engine := rfl
@[simp] theorem State.setRegs_waitReg (v : Vector Byte 16) : (s.setRegs v).waitReg = s.waitReg := rfl
@[simp] theorem State.setRegs_err (v : Vector Byte 16) : (s.setRegs v).err = s.err := rfl
@[simp] theorem State.setRegs_cpt (v : Vector Byte 16) : (s.setRegs v).cpt = s.cpt := rfl
@[simp] theorem State.setRegs_last (v : Vector Byte 16) : (s.setRegs v).last = s.last := rfl
@[simp] theorem State.setRegs_draws (v : Vector Byte 16) : (s.setRegs v).draws = s.draws := rfl
@[simp] theorem State.setRegs_inputs (v : Vector Byte 16) : (s.setRegs v).inputs = s.inputs := rfl
@[simp] theorem State.stackAt_setRegs (v : Vector Byte 16) (k : Fin 16) : (s.setRegs v).stackAt k = s.stackAt k := rfl

@[simp] theorem State.setMem_V (m : Memory) : (s.setMem m).V = s.V := rfl
@[simp] theorem State.setMem_I (m : Memory) : (s.setMem m).I = s.I := rfl
@[simp] theorem State.setMem_pc (m : Memory) : (s.setMem m).pc = s.pc := rfl
@[simp] theorem State.setMem_stack (m : Memory) : (s.setMem m).stack = s.stack := rfl
@[simp] theorem State.setMem_sp (m : Memory) : (s.setMem m).sp = s.sp := rfl
@[simp] theorem State.setMem_dt (m : Memory) : (s.setMem m).dt = s.dt := rfl
@[simp] theorem State.setMem_st (m : Memory) : (s.setMem m).st = s.st := rfl
@[simp] theorem State.setMem_disp (m : Memory) : (s.setMem m).disp = s.disp := rfl
@[simp] theorem State.setMem_mem (m : Memory) : (s.setMem m).mem = m := rfl
@[simp] theorem State.setMem_keys (m : Memory) : (s.setMem m).keys = s.keys := rfl
@[simp] theorem State.setMem_mode (m : Memory) : (s.setMem m).mode = s.mode := rfl
@[simp] theorem State.setMem_engine (m : Memory) : (s.setMem m).engine = s.engine := rfl
@[simp] theorem State.setMem_waitReg (m : Memory) : (s.setMem m).waitReg = s.waitReg := rfl
@[simp] theorem State.setMem_err (m : Memory) : (s.setMem m).err = s.err := rfl
@[simp] theorem State.setMem_cpt (m : Memory) : (s.setMem m).cpt = s.cpt := rfl
@[simp] theorem State.setMem_last (m : Memory) : (s.setMem m).last = s.last := rfl
@[simp] theorem State.setMem_draws (m : Memory) : (s.setMem m).draws = s.draws := rfl
@[simp] theorem State.setMem_inputs (m : Memory) : (s.setMem m).inputs = s.inputs := rfl
@[simp] theorem State.getV_setMem (m : Memory) (y : Nibble) : (s.setMem m).getV y = s.getV y := rfl
@[simp] theorem State.stackAt_setMem (m : Memory) (k : Fin 16) : (s.setMem m).stackAt k = s.stackAt k := rfl

@[simp] theorem State.setDisp_V (d : Display) : (s.setDisp d).V = s.V := rfl
@[simp] theorem State.setDisp_I (d : Display) : (s.setDisp d).I = s.I := rfl
@[simp] theorem State.setDisp_pc (d : Display) : (s.setDisp d).pc = s.pc := rfl
@[simp] theorem State.setDisp_stack (d : Display) : (s.setDisp d).stack = s.stack := rfl
@[simp] theorem State.setDisp_sp (d : Display) : (s.setDisp d).sp = s.sp := rfl
@[simp] theorem State.setDisp_dt (d : Display) : (s.setDisp d).dt = s.dt := rfl
@[simp] theorem State.setDisp_st (d : Display) : (s.setDisp d).st = s.st := rfl
@[simp] theorem State.setDisp_disp (d : Display) : (s.setDisp d).disp = d := rfl
@[simp] theorem State.setDisp_mem (d : Display) : (s.setDisp d).mem = s.mem := rfl
@[simp] theorem State.setDisp_keys (d : Display) : (s.setDisp d).keys = s.keys := rfl
@[simp] theorem State.setDisp_mode (d : Display) : (s.setDisp d).mode = s.mode := rfl
@[simp] theorem State.setDisp_engine (d : Display) : (s.setDisp d).engine = s.engine := rfl
@[simp] theorem State.setDisp_waitReg (d : Display) : (s.setDisp d).waitReg = s.waitReg := rfl
@[simp] theorem State.setDisp_err (d : Display) : (s.setDisp d).err = s.err := rfl
@[simp] theorem State.setDisp_cpt (d : Display) : (s.setDisp d).cpt = s.cpt := rfl
@[simp] theorem State.setDisp_last (d : Display) : (s.setDisp d).last = s.last := rfl
@[simp] theorem State.setDisp_draws (d : Display) : (s.setDisp d).draws = s.draws := rfl
@[simp] theorem State.setDisp_inputs (d : Display) : (s.setDisp d).inputs = s.inputs := rfl
@[simp] theorem State.getV_setDisp (d : Display) (y : Nibble) : (s.setDisp d).getV y = s.getV y := rfl
@[simp] theorem State.stackAt_setDisp (d : Display) (k : Fin 16) : (s.setDisp d).stackAt k = s.stackAt k := rfl

@[simp] theorem State.setDt_V (v : Byte) : (s.setDt v).V = s.V := rfl
@[simp] theorem State.setDt_I (v : Byte) : (s.setDt v).I = s.I := rfl
@[simp] theorem State.setDt_pc (v : Byte) : (s.setDt v).pc = s.pc := rfl
@[simp] theorem State.setDt_stack (v : Byte) : (s.setDt v).stack = s.stack := rfl
@[simp] theorem State.setDt_sp (v : Byte) : (s.setDt v).sp = s.sp := rfl
@[simp] theorem State.setDt_dt (v : Byte) : (s.setDt v).dt = v := rfl
@[simp] theorem State.setDt_st (v : Byte) : (s.setDt v).st = s.st := rfl
@[simp] theorem State.setDt_disp (v : Byte) : (s.setDt v).disp = s.disp := rfl
@[simp] theorem State.setDt_mem (v : Byte) : (s.setDt v).mem = s.mem := rfl
@[simp] theorem State.setDt_keys (v : Byte) : (s.setDt v).keys = s.keys := rfl
@[simp] theorem State.setDt_mode (v : Byte) : (s.setDt v).mode = s.mode := rfl
@[simp] theorem State.setDt_engine (v : Byte) : (s.setDt v).engine = s.engine := rfl
@[simp] theorem State.setDt_waitReg (v : Byte) : (s.setDt v).waitReg = s.waitReg := rfl
@[simp] theorem State.setDt_err (v : Byte) : (s.setDt v).err = s.err := rfl
@[simp] theorem State.setDt_cpt (v : Byte) : (s.setDt v).cpt = s.cpt := rfl
@[simp] theorem State.setDt_last (v : Byte) : (s.setDt v).last = s.last := rfl
@[simp] theorem State.setDt_draws (v : Byte) : (s.setDt v).draws = s.draws := rfl
@[simp] theorem State.setDt_inputs (v : Byte) : (s.setDt v).inputs = s.inputs := rfl
@[simp] theorem State.getV_setDt (v : Byte) (y : Nibble) : (s.setDt v).getV y = s.getV y := rfl
@[simp] theorem State.stackAt_setDt (v : Byte) (k : Fin 16) : (s.setDt v).stackAt k = s.stackAt k := rfl

@[simp] theorem State.setSt_V (v : Byte) : (s.setSt v).V = s.V := rfl
@[simp] theorem State.setSt_I (v : Byte) : (s.setSt v).I = s.I := rfl
@[simp] theorem State.setSt_pc (v : Byte) : (s.setSt v).pc = s.pc := rfl
@[simp] theorem State.setSt_stack (v : Byte) : (s.setSt v).stack = s.stack := rfl
@[simp] theorem State.setSt_sp (v : Byte) : (s.setSt v).sp = s.sp := rfl
@[simp] theorem State.setSt_dt (v : Byte) : (s.setSt v).dt = s.dt := rfl
@[simp] theorem State.setSt_st (v : Byte) : (s.setSt v).st = v := rfl
@[simp] theorem State.setSt_disp (v : Byte) : (s.setSt v).disp = s.disp := rfl
@[simp] theorem State.setSt_mem (v : Byte) : (s.setSt v).mem = s.mem := rfl
@[simp] theorem State.setSt_keys (v : Byte) : (s.setSt v).keys = s.keys := rfl
@[simp] theorem State.setSt_mode (v : Byte) : (s.setSt v).mode = s.mode := rfl
@[simp] theorem State.setSt_engine (v : Byte) : (s.setSt v).engine = s.engine := rfl
@[simp] theorem State.setSt_waitReg (v : Byte) : (s.setSt v).waitReg = s.waitReg := rfl
@[simp] theorem State.setSt_err (v : Byte) : (s.setSt v).err = s.err := rfl
@[simp] theorem State.setSt_cpt (v : Byte) : (s.setSt v).cpt = s.cpt := rfl
@[simp] theorem State.setSt_last (v : Byte) : (s.setSt v).last = s.last := rfl
@[simp] theorem State.setSt_draws (v : Byte) : (s.setSt v).draws = s.draws := rfl
@[simp] theorem State.setSt_inputs (v : Byte) : (s.setSt v).inputs = s.inputs := rfl
@[simp] theorem State.getV_setSt (v : Byte) (y : Nibble) : (s.setSt v).getV y = s.getV y := rfl
@[simp] theorem State.stackAt_setSt (v : Byte) (k : Fin 16) : (s.setSt v).stackAt k = s.stackAt k := rfl

@[simp] theorem State.setEngine_V (e : EngineState) : (s.setEngine e).V = s.V := rfl
@[simp] theorem State.setEngine_I (e : EngineState) : (s.setEngine e).I = s.I := rfl
@[simp] theorem State.setEngine_pc (e : EngineState) : (s.setEngine e).pc = s.pc := rfl
@[simp] theorem State.setEngine_stack (e : EngineState) : (s.setEngine e).stack = s.stack := rfl
@[simp] theorem State.setEngine_sp (e : EngineState) : (s.setEngine e).sp = s.sp := rfl
@[simp] theorem State.setEngine_dt (e : EngineState) : (s.setEngine e).dt = s.dt := rfl
@[simp] theorem State.setEngine_st (e : EngineState) : (s.setEngine e).st = s.st := rfl
@[simp] theorem State.setEngine_disp (e : EngineState) : (s.setEngine e).disp = s.disp := rfl
@[simp] theorem State.setEngine_mem (e : EngineState) : (s.setEngine e).mem = s.mem := rfl
@[simp] theorem State.setEngine_keys (e : EngineState) : (s.setEngine e).keys = s.keys := rfl
@[simp] theorem State.setEngine_mode (e : EngineState) : (s.setEngine e).mode = s.mode := rfl
@[simp] theorem State.setEngine_engine (e : EngineState) : (s.setEngine e).engine = e := rfl
@[simp] theorem State.setEngine_waitReg (e : EngineState) : (s.setEngine e).waitReg = s.waitReg := rfl
@[simp] theorem State.setEngine_err (e : EngineState) : (s.setEngine e).err = s.err := rfl
@[simp] theorem State.setEngine_cpt (e : EngineState) : (s.setEngine e).cpt = s.cpt := rfl
@[simp] theorem State.setEngine_last (e : EngineState) : (s.setEngine e).last = s.last := rfl
@[simp] theorem State.setEngine_draws (e : EngineState) : (s.setEngine e).draws = s.draws := rfl
@[simp] theorem State.setEngine_inputs (e : EngineState) : (s.setEngine e).inputs = s.inputs := rfl
@[simp] theorem State.getV_setEngine (e : EngineState) (y : Nibble) : (s.setEngine e).getV y = s.getV y := rfl
@[simp] theorem State.stackAt_setEngine (e : EngineState) (k : Fin 16) : (s.setEngine e).stackAt k = s.stackAt k := rfl

@[simp] theorem State.enterWait_V (x : Nibble) : (s.enterWait x).V = s.V := rfl
@[simp] theorem State.enterWait_I (x : Nibble) : (s.enterWait x).I = s.I := rfl
@[simp] theorem State.enterWait_pc (x : Nibble) : (s.enterWait x).pc = s.pc := rfl
@[simp] theorem State.enterWait_stack (x : Nibble) : (s.enterWait x).stack = s.stack := rfl
@[simp] theorem State.enterWait_sp (x : Nibble) : (s.enterWait x).sp = s.sp := rfl
@[simp] theorem State.enterWait_dt (x : Nibble) : (s.enterWait x).dt = s.dt := rfl
@[simp] theorem State.enterWait_st (x : Nibble) : (s.enterWait x).st = s.st := rfl
@[simp] theorem State.enterWait_disp (x : Nibble) : (s.enterWait x).disp = s.disp := rfl
@[simp] theorem State.enterWait_mem (x : Nibble) : (s.enterWait x).mem = s.mem := rfl
@[simp] theorem State.enterWait_keys (x : Nibble) : (s.enterWait x).keys = s.keys := rfl
@[simp] theorem State.enterWait_mode (x : Nibble) : (s.enterWait x).mode = s.mode := rfl
@[simp] theorem State.enterWait_engine (x : Nibble) : (s.enterWait x).engine = .waitingForKey := rfl
@[simp] theorem State.enterWait_waitReg (x : Nibble) : (s.enterWait x).waitReg = x := rfl
@[simp] theorem State.enterWait_err (x : Nibble) : (s.enterWait x).err = s.err := rfl
@[simp] theorem State.enterWait_cpt (x : Nibble) : (s.enterWait x).cpt = s.cpt := rfl
@[simp] theorem State.enterWait_last (x : Nibble) : (s.enterWait x).last = s.last := rfl
@[simp] theorem State.enterWait_draws (x : Nibble) : (s.enterWait x).draws = s.draws := rfl
@[simp] theorem State.enterWait_inputs (x : Nibble) : (s.enterWait x).inputs = s.inputs := rfl
@[simp] theorem State.getV_enterWait (x : Nibble) (y : Nibble) : (s.enterWait x).getV y = s.getV y := rfl
@[simp] theorem State.stackAt_enterWait (x : Nibble) (k : Fin 16) : (s.enterWait x).stackAt k = s.stackAt k := rfl

@[simp] theorem State.countDraw_V : s.countDraw.V = s.V := rfl
@[simp] theorem State.countDraw_I : s.countDraw.I = s.I := rfl
@[simp] theorem State.countDraw_pc : s.countDraw.pc = s.pc := rfl
@[simp] theorem State.countDraw_stack : s.countDraw.stack = s.stack := rfl
@[simp] theorem State.countDraw_sp : s.countDraw.sp = s.sp := rfl
@[simp] theorem State.countDraw_dt : s.countDraw.dt = s.dt := rfl
@[simp] theorem State.countDraw_st : s.countDraw.st = s.st := rfl
@[simp] theorem State.countDraw_disp : s.countDraw.disp = s.disp := rfl
@[simp] theorem State.countDraw_mem : s.countDraw.mem = s.mem := rfl
@[simp] theorem State.countDraw_keys : s.countDraw.keys = s.keys := rfl
@[simp] theorem State.countDraw_mode : s.countDraw.mode = s.mode := rfl
@[simp] theorem State.countDraw_engine : s.countDraw.engine = s.engine := rfl
@[simp] theorem State.countDraw_waitReg : s.countDraw.waitReg = s.waitReg := rfl
@[simp] theorem State.countDraw_err : s.countDraw.err = s.err := rfl
@[simp] theorem State.countDraw_cpt : s.countDraw.cpt = s.cpt := rfl
@[simp] theorem State.countDraw_last : s.countDraw.last = s.last := rfl
@[simp] theorem State.countDraw_draws : s.countDraw.draws = s.draws + 1 := rfl
@[simp] theorem State.countDraw_inputs : s.countDraw.inputs = s.inputs := rfl
@[simp] theorem State.getV_countDraw (y : Nibble) : s.countDraw.getV y = s.getV y := rfl
@[simp] theorem State.stackAt_countDraw (k : Fin 16) : s.countDraw.stackAt k = s.stackAt k := rfl

@[simp] theorem State.setV_V (x : Nibble) (v : Byte) : (s.setV x v).V = s.V.set x.toNat v x.isLt := rfl
@[simp] theorem State.setV_I (x : Nibble) (v : Byte) : (s.setV x v).I = s.I := rfl
@[simp] theorem State.setV_pc (x : Nibble) (v : Byte) : (s.setV x v).pc = s.pc := rfl
@[simp] theorem State.setV_stack (x : Nibble) (v : Byte) : (s.setV x v).stack = s.stack := rfl
@[simp] theorem State.setV_sp (x : Nibble) (v : Byte) : (s.setV x v).sp = s.sp := rfl
@[simp] theorem State.setV_dt (x : Nibble) (v : Byte) : (s.setV x v).dt = s.dt := rfl
@[simp] theorem State.setV_st (x : Nibble) (v : Byte) : (s.setV x v).st = s.st := rfl
@[simp] theorem State.setV_disp (x : Nibble) (v : Byte) : (s.setV x v).disp = s.disp := rfl
@[simp] theorem State.setV_mem (x : Nibble) (v : Byte) : (s.setV x v).mem = s.mem := rfl
@[simp] theorem State.setV_keys (x : Nibble) (v : Byte) : (s.setV x v).keys = s.keys := rfl
@[simp] theorem State.setV_mode (x : Nibble) (v : Byte) : (s.setV x v).mode = s.mode := rfl
@[simp] theorem State.setV_engine (x : Nibble) (v : Byte) : (s.setV x v).engine = s.engine := rfl
@[simp] theorem State.setV_waitReg (x : Nibble) (v : Byte) : (s.setV x v).waitReg = s.waitReg := rfl
@[simp] theorem State.setV_err (x : Nibble) (v : Byte) : (s.setV x v).err = s.err := rfl
@[simp] theorem State.setV_cpt (x : Nibble) (v : Byte) : (s.setV x v).cpt = s.cpt := rfl
@[simp] theorem State.setV_last (x : Nibble) (v : Byte) : (s.setV x v).last = s.last := rfl
@[simp] theorem State.setV_draws (x : Nibble) (v : Byte) : (s.setV x v).draws = s.draws := rfl
@[simp] theorem State.setV_inputs (x : Nibble) (v : Byte) : (s.setV x v).inputs = s.inputs := rfl
@[simp] theorem State.stackAt_setV (x : Nibble) (v : Byte) (k : Fin 16) : (s.setV x v).stackAt k = s.stackAt k := rfl

@[simp] theorem State.advance_V : s.advance.V = s.V := rfl
@[simp] theorem State.advance_I : s.advance.I = s.I := rfl
@[simp] theorem State.advance_pc : s.advance.pc = s.pc + 2 := rfl
@[simp] theorem State.advance_stack : s.advance.stack = s.stack := rfl
@[simp] theorem State.advance_sp : s.advance.sp = s.sp := rfl
@[simp] theorem State.advance_dt : s.advance.dt = s.dt := rfl
@[simp] theorem State.advance_st : s.advance.st = s.st := rfl
@[simp] theorem State.advance_disp : s.advance.disp = s.disp := rfl
@[simp] theorem State.advance_mem : s.advance.mem = s.mem := rfl
@[simp] theorem State.advance_keys : s.advance.keys = s.keys := rfl
@[simp] theorem State.advance_mode : s.advance.mode = s.mode := rfl
@[simp] theorem State.advance_engine : s.advance.engine = s.engine := rfl
@[simp] theorem State.advance_waitReg : s.advance.waitReg = s.waitReg := rfl
@[simp] theorem State.advance_err : s.advance.err = s.err := rfl
@[simp] theorem State.advance_cpt : s.advance.cpt = s.cpt := rfl
@[simp] theorem State.advance_last : s.advance.last = s.last := rfl
@[simp] theorem State.advance_draws : s.advance.draws = s.draws := rfl
@[simp] theorem State.advance_inputs : s.advance.inputs = s.inputs := rfl
@[simp] theorem State.getV_advance (y : Nibble) : s.advance.getV y = s.getV y := rfl
@[simp] theorem State.stackAt_advance (k : Fin 16) : s.advance.stackAt k = s.stackAt k := rfl

@[simp] theorem State.skipIf_V (c : Bool) : (s.skipIf c).V = s.V := rfl
@[simp] theorem State.skipIf_I (c : Bool) : (s.skipIf c).I = s.I := rfl
@[simp] theorem State.skipIf_pc (c : Bool) : (s.skipIf c).pc = if c then s.pc + 4 else s.pc + 2 := rfl
@[simp] theorem State.skipIf_stack (c : Bool) : (s.skipIf c).stack = s.stack := rfl
@[simp] theorem State.skipIf_sp (c : Bool) : (s.skipIf c).sp = s.sp := rfl
@[simp] theorem State.skipIf_dt (c : Bool) : (s.skipIf c).dt = s.dt := rfl
@[simp] theorem State.skipIf_st (c : Bool) : (s.skipIf c).st = s.st := rfl
@[simp] theorem State.skipIf_disp (c : Bool) : (s.skipIf c).disp = s.disp := rfl
@[simp] theorem State.skipIf_mem (c : Bool) : (s.skipIf c).mem = s.mem := rfl
@[simp] theorem State.skipIf_keys (c : Bool) : (s.skipIf c).keys = s.keys := rfl
@[simp] theorem State.skipIf_mode (c : Bool) : (s.skipIf c).mode = s.mode := rfl
@[simp] theorem State.skipIf_engine (c : Bool) : (s.skipIf c).engine = s.engine := rfl
@[simp] theorem State.skipIf_waitReg (c : Bool) : (s.skipIf c).waitReg = s.waitReg := rfl
@[simp] theorem State.skipIf_err (c : Bool) : (s.skipIf c).err = s.err := rfl
@[simp] theorem State.skipIf_cpt (c : Bool) : (s.skipIf c).cpt = s.cpt := rfl
@[simp] theorem State.skipIf_last (c : Bool) : (s.skipIf c).last = s.last := rfl
@[simp] theorem State.skipIf_draws (c : Bool) : (s.skipIf c).draws = s.draws := rfl
@[simp] theorem State.skipIf_inputs (c : Bool) : (s.skipIf c).inputs = s.inputs := rfl
@[simp] theorem State.getV_skipIf (c : Bool) (y : Nibble) : (s.skipIf c).getV y = s.getV y := rfl
@[simp] theorem State.stackAt_skipIf (c : Bool) (k : Fin 16) : (s.skipIf c).stackAt k = s.stackAt k := rfl

@[simp] theorem State.jump_V (t : Word) : (s.jump t).V = s.V := rfl
@[simp] theorem State.jump_I (t : Word) : (s.jump t).I = s.I := rfl
@[simp] theorem State.jump_pc (t : Word) : (s.jump t).pc = t := rfl
@[simp] theorem State.jump_stack (t : Word) : (s.jump t).stack = s.stack := rfl
@[simp] theorem State.jump_sp (t : Word) : (s.jump t).sp = s.sp := rfl
@[simp] theorem State.jump_dt (t : Word) : (s.jump t).dt = s.dt := rfl
@[simp] theorem State.jump_st (t : Word) : (s.jump t).st = s.st := rfl
@[simp] theorem State.jump_disp (t : Word) : (s.jump t).disp = s.disp := rfl
@[simp] theorem State.jump_mem (t : Word) : (s.jump t).mem = s.mem := rfl
@[simp] theorem State.jump_keys (t : Word) : (s.jump t).keys = s.keys := rfl
@[simp] theorem State.jump_mode (t : Word) : (s.jump t).mode = s.mode := rfl
@[simp] theorem State.jump_engine (t : Word) : (s.jump t).engine = s.engine := rfl
@[simp] theorem State.jump_waitReg (t : Word) : (s.jump t).waitReg = s.waitReg := rfl
@[simp] theorem State.jump_err (t : Word) : (s.jump t).err = s.err := rfl
@[simp] theorem State.jump_cpt (t : Word) : (s.jump t).cpt = s.cpt := rfl
@[simp] theorem State.jump_last (t : Word) : (s.jump t).last = s.last := rfl
@[simp] theorem State.jump_draws (t : Word) : (s.jump t).draws = s.draws := rfl
@[simp] theorem State.jump_inputs (t : Word) : (s.jump t).inputs = s.inputs := rfl
@[simp] theorem State.getV_jump (t : Word) (y : Nibble) : (s.jump t).getV y = s.getV y := rfl
@[simp] theorem State.stackAt_jump (t : Word) (k : Fin 16) : (s.jump t).stackAt k = s.stackAt k := rfl

@[simp] theorem State.push_V (v : Word) (h : s.sp.val < 16) : (s.push v h).V = s.V := rfl
@[simp] theorem State.push_I (v : Word) (h : s.sp.val < 16) : (s.push v h).I = s.I := rfl
@[simp] theorem State.push_pc (v : Word) (h : s.sp.val < 16) : (s.push v h).pc = s.pc := rfl
@[simp] theorem State.push_stack (v : Word) (h : s.sp.val < 16) : (s.push v h).stack = s.stack.set s.sp.val v h := rfl
@[simp] theorem State.push_sp (v : Word) (h : s.sp.val < 16) : (s.push v h).sp = ⟨s.sp.val + 1, Nat.succ_lt_succ h⟩ := rfl
@[simp] theorem State.push_dt (v : Word) (h : s.sp.val < 16) : (s.push v h).dt = s.dt := rfl
@[simp] theorem State.push_st (v : Word) (h : s.sp.val < 16) : (s.push v h).st = s.st := rfl
@[simp] theorem State.push_disp (v : Word) (h : s.sp.val < 16) : (s.push v h).disp = s.disp := rfl
@[simp] theorem State.push_mem (v : Word) (h : s.sp.val < 16) : (s.push v h).mem = s.mem := rfl
@[simp] theorem State.push_keys (v : Word) (h : s.sp.val < 16) : (s.push v h).keys = s.keys := rfl
@[simp] theorem State.push_mode (v : Word) (h : s.sp.val < 16) : (s.push v h).mode = s.mode := rfl
@[simp] theorem State.push_engine (v : Word) (h : s.sp.val < 16) : (s.push v h).engine = s.engine := rfl
@[simp] theorem State.push_waitReg (v : Word) (h : s.sp.val < 16) : (s.push v h).waitReg = s.waitReg := rfl
@[simp] theorem State.push_err (v : Word) (h : s.sp.val < 16) : (s.push v h).err = s.err := rfl
@[simp] theorem State.push_cpt (v : Word) (h : s.sp.val < 16) : (s.push v h).cpt = s.cpt := rfl
@[simp] theorem State.push_last (v : Word) (h : s.sp.val < 16) : (s.push v h).last = s.last := rfl
@[simp] theorem State.push_draws (v : Word) (h : s.sp.val < 16) : (s.push v h).draws = s.draws := rfl
@[simp] theorem State.push_inputs (v : Word) (h : s.sp.val < 16) : (s.push v h).inputs = s.inputs := rfl
@[simp] theorem State.getV_push (v : Word) (h : s.sp.val < 16) (y : Nibble) : (s.push v h).getV y = s.getV y := rfl

@[simp] theorem State.drop_V : s.drop.V = s.V := rfl
@[simp] theorem State.drop_I : s.drop.I = s.I := rfl
@[simp] theorem State.drop_pc : s.drop.pc = s.pc := rfl
@[simp] theorem State.drop_stack : s.drop.stack = s.stack := rfl
@[simp] theorem State.drop_sp : s.drop.sp = ⟨s.sp.val - 1, Nat.lt_of_le_of_lt (Nat.sub_le _ _) s.sp.isLt⟩ := rfl
@[simp] theorem State.drop_dt : s.drop.dt = s.dt := rfl
@[simp] theorem State.drop_st : s.drop.st = s.st := rfl
@[simp] theorem State.drop_disp : s.drop.disp = s.disp := rfl
@[simp] theorem State.drop_mem : s.drop.mem = s.mem := rfl
@[simp] theorem State.drop_keys : s.drop.keys = s.keys := rfl
@[simp] theorem State.drop_mode : s.drop.mode = s.mode := rfl
@[simp] theorem State.drop_engine : s.drop.engine = s.engine := rfl
@[simp] theorem State.drop_waitReg : s.drop.waitReg = s.waitReg := rfl
@[simp] theorem State.drop_err : s.drop.err = s.err := rfl
@[simp] theorem State.drop_cpt : s.drop.cpt = s.cpt := rfl
@[simp] theorem State.drop_last : s.drop.last = s.last := rfl
@[simp] theorem State.drop_draws : s.drop.draws = s.draws := rfl
@[simp] theorem State.drop_inputs : s.drop.inputs = s.inputs := rfl
@[simp] theorem State.getV_drop (y : Nibble) : s.drop.getV y = s.getV y := rfl
@[simp] theorem State.stackAt_drop (k : Fin 16) : s.drop.stackAt k = s.stackAt k := rfl

@[simp] theorem State.halt_V (e : FatalError) : (s.halt e).V = s.V := rfl
@[simp] theorem State.halt_I (e : FatalError) : (s.halt e).I = s.I := rfl
@[simp] theorem State.halt_pc (e : FatalError) : (s.halt e).pc = s.pc := rfl
@[simp] theorem State.halt_stack (e : FatalError) : (s.halt e).stack = s.stack := rfl
@[simp] theorem State.halt_sp (e : FatalError) : (s.halt e).sp = s.sp := rfl
@[simp] theorem State.halt_dt (e : FatalError) : (s.halt e).dt = s.dt := rfl
@[simp] theorem State.halt_st (e : FatalError) : (s.halt e).st = s.st := rfl
@[simp] theorem State.halt_disp (e : FatalError) : (s.halt e).disp = s.disp := rfl
@[simp] theorem State.halt_mem (e : FatalError) : (s.halt e).mem = s.mem := rfl
@[simp] theorem State.halt_keys (e : FatalError) : (s.halt e).keys = s.keys := rfl
@[simp] theorem State.halt_mode (e : FatalError) : (s.halt e).mode = s.mode := rfl
@[simp] theorem State.halt_engine (e : FatalError) : (s.halt e).engine = .halted := rfl
@[simp] theorem State.halt_waitReg (e : FatalError) : (s.halt e).waitReg = s.waitReg := rfl
@[simp] theorem State.halt_err (e : FatalError) : (s.halt e).err = some e := rfl
@[simp] theorem State.halt_cpt (e : FatalError) : (s.halt e).cpt = s.cpt := rfl
@[simp] theorem State.halt_last (e : FatalError) : (s.halt e).last = s.last := rfl
@[simp] theorem State.halt_draws (e : FatalError) : (s.halt e).draws = s.draws := rfl
@[simp] theorem State.halt_inputs (e : FatalError) : (s.halt e).inputs = s.inputs := rfl
@[simp] theorem State.getV_halt (e : FatalError) (y : Nibble) : (s.halt e).getV y = s.getV y := rfl
@[simp] theorem State.stackAt_halt (e : FatalError) (k : Fin 16) : (s.halt e).stackAt k = s.stackAt k := rfl

@[simp] theorem State.setResultAndFlag_I (x : Nibble) (r g : Byte) : (s.setResultAndFlag x r g).I = s.I := rfl
@[simp] theorem State.setResultAndFlag_pc (x : Nibble) (r g : Byte) : (s.setResultAndFlag x r g).pc = s.pc := rfl
@[simp] theorem State.setResultAndFlag_stack (x : Nibble) (r g : Byte) : (s.setResultAndFlag x r g).stack = s.stack := rfl
@[simp] theorem State.setResultAndFlag_sp (x : Nibble) (r g : Byte) : (s.setResultAndFlag x r g).sp = s.sp := rfl
@[simp] theorem State.setResultAndFlag_dt (x : Nibble) (r g : Byte) : (s.setResultAndFlag x r g).dt = s.dt := rfl
@[simp] theorem State.setResultAndFlag_st (x : Nibble) (r g : Byte) : (s.setResultAndFlag x r g).st = s.st := rfl
@[simp] theorem State.setResultAndFlag_disp (x : Nibble) (r g : Byte) : (s.setResultAndFlag x r g).disp = s.disp := rfl
@[simp] theorem State.setResultAndFlag_mem (x : Nibble) (r g : Byte) : (s.setResultAndFlag x r g).mem = s.mem := rfl
@[simp] theorem State.setResultAndFlag_keys (x : Nibble) (r g : Byte) : (s.setResultAndFlag x r g).keys = s.keys := rfl
@[simp] theorem State.setResultAndFlag_mode (x : Nibble) (r g : Byte) : (s.setResultAndFlag x r g).mode = s.mode := rfl
@[simp] theorem State.setResultAndFlag_engine (x : Nibble) (r g : Byte) : (s.setResultAndFlag x r g).engine = s.engine := rfl
@[simp] theorem State.setResultAndFlag_waitReg (x : Nibble) (r g : Byte) : (s.setResultAndFlag x r g).waitReg = s.waitReg := rfl
@[simp] theorem State.setResultAndFlag_err (x : Nibble) (r g : Byte) : (s.setResultAndFlag x r g).err = s.err := rfl
@[simp] theorem State.setResultAndFlag_cpt (x : Nibble) (r g : Byte) : (s.setResultAndFlag x r g).cpt = s.cpt := rfl
@[simp] theorem State.setResultAndFlag_last (x : Nibble) (r g : Byte) : (s.setResultAndFlag x r g).last = s.last := rfl
@[simp] theorem State.setResultAndFlag_draws (x : Nibble) (r g : Byte) : (s.setResultAndFlag x r g).draws = s.draws := rfl
@[simp] theorem State.setResultAndFlag_inputs (x : Nibble) (r g : Byte) : (s.setResultAndFlag x r g).inputs = s.inputs := rfl
@[simp] theorem State.stackAt_setResultAndFlag (x : Nibble) (r g : Byte) (k : Fin 16) :
    (s.setResultAndFlag x r g).stackAt k = s.stackAt k := rfl

end Sys2Proof.Machine
end

