-- ==== Sys2Proof/Laws/Events.lean ====
section
/-! SUPPORT. The font in memory, what `Reset` leaves field by field, and what one `Step` and the key-wait poll can do. -/

namespace Sys2Proof.Machine

theorem length_fontData : Config.fontData.length = 80 := by decide

theorem font_fits : Config.fontBase + Config.fontData.length ≤ Config.memSize := by decide

/-- What an unlisted address of the font range reads as is the font (10_state.md R22, R23). -/
theorem resetByte_font (k : Nat) (h : k < Config.fontData.length) :
    Config.resetByte (Config.fontBase + k) = Config.fontData[k] := by
  simp [Config.resetByte, h]

/-- Writing the font over the zeros of `Construct` lists nothing: the memory after `Construct` is the reset memory
(70_reset_and_hazards.md R290). -/
theorem font_over_zeros : Memory.writeBytes zeroFilledMemory Config.fontBase Config.fontData = [] := by decide +kernel

section
variable (s : State)

@[simp] theorem State.applyReset_I : s.applyReset.I = 0 := rfl
@[simp] theorem State.applyReset_pc : s.applyReset.pc = 0x200 := rfl
@[simp] theorem State.applyReset_sp : s.applyReset.sp = 0 := rfl
@[simp] theorem State.applyReset_dt : s.applyReset.dt = 0 := rfl
@[simp] theorem State.applyReset_st : s.applyReset.st = 0 := rfl
@[simp] theorem State.applyReset_keys : s.applyReset.keys = s.keys := rfl
@[simp] theorem State.applyReset_mode : s.applyReset.mode = s.mode := rfl
@[simp] theorem State.applyReset_engine : s.applyReset.engine = .running := rfl
@[simp] theorem State.applyReset_waitReg : s.applyReset.waitReg = 0 := rfl
@[simp] theorem State.applyReset_err : s.applyReset.err = none := rfl
@[simp] theorem State.applyReset_cpt : s.applyReset.cpt = s.cpt := rfl
@[simp] theorem State.applyReset_last : s.applyReset.last = s.last := rfl
@[simp] theorem State.applyReset_draws : s.applyReset.draws = s.draws := rfl
@[simp] theorem State.applyReset_inputs : s.applyReset.inputs = s.inputs := rfl

theorem State.applyReset_mem : s.applyReset.mem = Memory.writeBytes s.mem Config.fontBase Config.fontData := by
  simp only [State.applyReset]

@[simp] theorem State.getV_applyReset (x : Nibble) : s.applyReset.getV x = 0 := by
  simp [State.getV, State.applyReset]

@[simp] theorem State.stackAt_applyReset (k : Fin 16) : s.applyReset.stackAt k = 0 := by
  simp [State.stackAt, State.applyReset]

end

/-- Memory after `Reset` is in its canonical form, holds the font in its range, and reads as before outside it
(70_reset_and_hazards.md R291). -/
theorem applyReset_memory {s : State} (hm : Memory.wf s.mem) :
    Memory.wf s.applyReset.mem ∧
    (∀ k, (h : k < Config.fontData.length) →
      Memory.read s.applyReset.mem (Config.fontBase + k) = Config.fontData[k]) ∧
    (∀ a, a < Config.fontBase ∨ Config.fontBase + Config.fontData.length ≤ a →
      Memory.read s.applyReset.mem a = Memory.read s.mem a) := by
  rw [State.applyReset_mem]
  have w := Memory.wf_writeBytes Config.fontData hm font_fits
  have r := Memory.read_writeBytes_inside Config.fontData hm font_fits
  have o := fun a => Memory.read_writeBytes_outside (b := a) Config.fontData s.mem (a := Config.fontBase)
  exact ⟨w, r, o⟩

/-- What a `Step` can be, by the engine's state (40_execution_cycle.md R120). -/
theorem stepEvent_cases (s : State) :
    (s.engine = .running ∧ ∃ e, s.fetch = .error e ∧ stepEvent s = .next (s.halt e)) ∨
    (s.engine = .running ∧ ∃ w, s.fetch = .ok w ∧ stepEvent s = exec (decodeWord w) s) ∨
    (s.engine = .waitingForKey ∧ stepEvent s = .next (pollKey s)) ∨
    ((s.engine = .paused ∨ s.engine = .halted) ∧ stepEvent s = .next s) := by
  cases h : s.engine with
  | running =>
    cases hf : s.fetch with
    | error e => exact .inl ⟨rfl, e, rfl, by simp only [stepEvent, stepRunning, h, hf]; rfl⟩
    | ok w => exact .inr (.inl ⟨rfl, w, rfl, by simp only [stepEvent, stepRunning, h, hf]⟩)
  | waitingForKey => exact .inr (.inr (.inl ⟨rfl, by simp only [stepEvent, h]⟩))
  | paused => exact .inr (.inr (.inr ⟨.inl rfl, by simp only [stepEvent, h]⟩))
  | halted => exact .inr (.inr (.inr ⟨.inr rfl, by simp only [stepEvent, h]⟩))

/-- What the key-wait poll can do (40_execution_cycle.md R127). -/
theorem pollKey_cases (s : State) :
    (leastKey s.keys = none ∧ pollKey s = s) ∨
    (∃ k, leastKey s.keys = some k ∧
      pollKey s = ((s.setV s.waitReg (k.setWidth 8)).advance).setEngine .running) := by
  rw [pollKey]
  cases h : leastKey s.keys with
  | none => exact .inl ⟨rfl, rfl⟩
  | some k => exact .inr ⟨k, rfl, rfl⟩

end Sys2Proof.Machine
end

