-- ==== Sys2Proof/Laws/Registers.lean ====
section
/-! SUPPORT. What a register read gives after a register write, one register or several, and the flag computations. -/

namespace Sys2Proof.Machine

/-- A register reads as what was written to it, and every other register as before (10_state.md R20). -/
theorem State.getV_setV (s : State) (x y : Nibble) (v : Byte) :
    (s.setV x v).getV y = if x = y then v else s.getV y := by
  simp only [State.getV, State.setV, Vector.getElem_set, BitVec.toNat_inj]

@[simp] theorem State.getV_setV_same (s : State) (x : Nibble) (v : Byte) : (s.setV x v).getV x = v := by
  simp [State.getV_setV]

theorem State.getV_setV_ne (s : State) {x y : Nibble} (v : Byte) (h : y ≠ x) : (s.setV x v).getV y = s.getV y := by
  simp [State.getV_setV, Ne.symm h]

/-- VF ends as the flag, whatever the destination (41_arithmetic_bitwise.md R157). -/
@[simp] theorem State.getV_setResultAndFlag_flag (s : State) (x : Nibble) (r g : Byte) :
    (s.setResultAndFlag x r g).getV regF = g := State.getV_setV_same _ _ _

theorem State.getV_setResultAndFlag_result (s : State) {x : Nibble} (r g : Byte) (h : x ≠ regF) :
    (s.setResultAndFlag x r g).getV x = r := by
  rw [State.setResultAndFlag, State.getV_setV_ne _ _ h, State.getV_setV_same]

theorem State.getV_setResultAndFlag_other (s : State) {x y : Nibble} (r g : Byte) (hx : y ≠ x) (hf : y ≠ regF) :
    (s.setResultAndFlag x r g).getV y = s.getV y := by
  rw [State.setResultAndFlag, State.getV_setV_ne _ _ hf, State.getV_setV_ne _ _ hx]

/-- Consecutive registers written at once: each of them reads as its byte, every other as before. -/
theorem getElem_setRegisters (bs : List Byte) (V : Vector Byte 16) (i k : Nat) (hk : k < 16) :
    (setRegisters V i bs)[k] = if h : i ≤ k ∧ k - i < bs.length then bs[k - i]'h.2 else V[k] := by
  induction bs generalizing V i with
  | nil => simp [setRegisters]
  | cons b bs ih =>
    rw [setRegisters, ih, Vector.getElem_setIfInBounds]
    by_cases h1 : i = k
    · subst h1; simp
    · by_cases h2 : i ≤ k
      · obtain ⟨d, rfl⟩ : ∃ d, k = i + 1 + d := ⟨k - (i + 1), by omega⟩
        have e : i + 1 + d - i = d + 1 := by omega
        simp only [e, List.getElem_cons_succ, List.length_cons, Nat.add_lt_add_iff_right]
        by_cases h3 : d < bs.length
        · rw [dif_pos ⟨by omega, by omega⟩, dif_pos ⟨by omega, h3⟩]; simp
        · rw [dif_neg (by omega), dif_neg (by omega), if_neg h1]
      · rw [dif_neg (by omega), dif_neg (by omega), if_neg h1]

@[simp] theorem State.length_registerBytes (s : State) (i n : Nat) : (s.registerBytes i n).length = n := by
  induction n generalizing i with
  | zero => rfl
  | succ n ih => simp [State.registerBytes, ih]

/-- The bytes of consecutive registers are the registers, in order. -/
theorem State.getElem_registerBytes (s : State) (i n k : Nat) (h : k < (s.registerBytes i n).length) :
    (s.registerBytes i n)[k] = s.getV (BitVec.ofNat 4 (i + k)) := by
  induction n generalizing i k with
  | zero => simp at h
  | succ n ih =>
    cases k with
    | zero => simp [State.registerBytes]
    | succ k =>
      simp only [State.registerBytes, List.getElem_cons_succ]
      rw [ih]; congr 2; omega

end Sys2Proof.Machine
end

