-- ==== Sys2Proof/Laws/Exec.lean ====
section
/-! SUPPORT. What the execution of any instruction can do, said once: it answers a next state, it halts or goes on, and it
keeps memory in its canonical form and below 0x200 as it was; the least pressed key; and when a frame holds. -/

namespace Sys2Proof.Machine

/-- A frame holds if each part that is not excepted is the same. -/
theorem Unchanged.intro {s t : State} {but : List Part} (h : SameOutside s t)
    (registers : .registers ∉ but → ∀ x, t.getV x = s.getV x)
    (index : .index ∉ but → t.I = s.I)
    (memory : .memory ∉ but → ∀ a, Memory.read t.mem a = Memory.read s.mem a)
    (stack : .stack ∉ but → t.sp = s.sp ∧ ∀ k, t.stackAt k = s.stackAt k)
    (display : .display ∉ but → ∀ x y, Display.pixel t.disp x y = Display.pixel s.disp x y)
    (timers : .timers ∉ but → t.dt = s.dt ∧ t.st = s.st)
    (engine : .engine ∉ but → t.engine = s.engine ∧ t.waitReg = s.waitReg ∧ t.err = s.err)
    (draws : .draws ∉ but → t.draws = s.draws) : Unchanged s t but := by
  refine ⟨h, fun p hp => ?_⟩
  cases p with
  | registers => exact registers hp
  | index => exact index hp
  | memory => exact memory hp
  | stack => exact stack hp
  | display => exact display hp
  | timers => exact timers hp
  | engine => exact engine hp
  | draws => exact draws hp

/-- The entry to `Halted` changes the engine and the error latch only. -/
theorem haltedWith_halt (s : State) (e : FatalError) : HaltedWith s (s.halt e) e := by
  refine ⟨rfl, rfl, rfl, rfl, Unchanged.intro ?_ ?_ ?_ ?_ ?_ ?_ ?_ ?_ ?_⟩ <;> simp [SameOutside]

/-- What the execution of an instruction can answer: the entry to `Halted` from the state it met, or a state in which no
error was latched by it and the engine waits if the instruction is FX0A and is as before if it is not. -/
theorem exec_cases (i : Instr) (s : State) : ∃ t, exec i s = .next t ∧
    ((∃ e, t = s.halt e) ∨
      (t.err = s.err ∧ ((∃ x, i = .ldVxK x ∧ t.engine = .waitingForKey) ∨
        (t.engine = s.engine ∧ ∀ x, i ≠ .ldVxK x)))) := by
  cases i with
  | ret =>
    simp only [exec, execRet]; split
    · exact ⟨_, rfl, .inr (by simp)⟩
    · exact ⟨_, rfl, .inl ⟨_, rfl⟩⟩
  | call nnn =>
    simp only [exec, execCall]; split
    · exact ⟨_, rfl, .inr (by simp)⟩
    · exact ⟨_, rfl, .inl ⟨_, rfl⟩⟩
  | drw x y n =>
    rcases guarded_cases (checkRead s.baseAddr n.toNat) s _ with ⟨e, _, h⟩ | ⟨_, h⟩
    · exact ⟨_, h, .inl ⟨e, rfl⟩⟩
    · exact ⟨_, h, .inr (by simp)⟩
  | ldBVx x =>
    rcases guarded_cases (checkWrite s.baseAddr 3) s _ with ⟨e, _, h⟩ | ⟨_, h⟩
    · exact ⟨_, h, .inl ⟨e, rfl⟩⟩
    · exact ⟨_, h, .inr (by simp)⟩
  | storeRegs x =>
    rcases guarded_cases (checkWrite s.baseAddr (x.toNat + 1)) s _ with ⟨e, _, h⟩ | ⟨_, h⟩
    · exact ⟨_, h, .inl ⟨e, rfl⟩⟩
    · exact ⟨_, h, .inr (by simp)⟩
  | loadRegs x =>
    rcases guarded_cases (checkRead s.baseAddr (x.toNat + 1)) s _ with ⟨e, _, h⟩ | ⟨_, h⟩
    · exact ⟨_, h, .inl ⟨e, rfl⟩⟩
    · exact ⟨_, h, .inr (by simp)⟩
  | ldVxK x => exact ⟨_, rfl, .inr (by simp)⟩
  | rnd x nn => exact ⟨_, rfl, .inr (by simp [State.drawInto])⟩
  | _ => exact ⟨_, rfl, .inr (by simp)⟩

/-- Every instruction completes or halts: none stops the machine. -/
theorem exec_completes (i : Instr) (s : State) : ∃ t, exec i s = .next t :=
  (exec_cases i s).imp fun _ h => h.1

/-- Memory after an instruction: its canonical form is kept, and nothing below 0x200 changes (20_memory.md R63). -/
theorem exec_memory {i : Instr} {s t : State} (h : exec i s = .next t) (hm : Memory.wf s.mem) :
    Memory.wf t.mem ∧ ∀ a, a < 0x200 → Memory.read t.mem a = Memory.read s.mem a := by
  have keep : t.mem = s.mem → Memory.wf t.mem ∧ ∀ a, a < 0x200 → Memory.read t.mem a = Memory.read s.mem a :=
    fun e => by rw [e]; exact ⟨hm, fun _ _ => rfl⟩
  have store : ∀ bs : List Byte, checkWrite s.baseAddr bs.length = none →
      t.mem = Memory.writeBytes s.mem s.baseAddr bs →
      Memory.wf t.mem ∧ ∀ a, a < 0x200 → Memory.read t.mem a = Memory.read s.mem a := fun bs hc e => by
    have hc := checkWrite_eq_none.mp hc
    rw [e]
    exact ⟨Memory.wf_writeBytes bs hm (by simp only [Config.memSize]; omega),
      fun a ha => Memory.read_writeBytes_outside bs _ (.inl (by omega))⟩
  cases i with
  | ret =>
    simp only [exec, execRet] at h
    split at h <;> cases h <;> exact keep rfl
  | call nnn =>
    simp only [exec, execCall] at h
    split at h <;> cases h <;> exact keep rfl
  | drw x y n =>
    rcases guarded_cases (checkRead s.baseAddr n.toNat) s _ with ⟨e, _, g⟩ | ⟨_, g⟩ <;>
      cases g.symm.trans h <;> exact keep rfl
  | loadRegs x =>
    rcases guarded_cases (checkRead s.baseAddr (x.toNat + 1)) s _ with ⟨e, _, g⟩ | ⟨_, g⟩ <;>
      cases g.symm.trans h <;> exact keep rfl
  | ldBVx x =>
    rcases guarded_cases (checkWrite s.baseAddr 3) s _ with ⟨e, _, g⟩ | ⟨hc, g⟩ <;> cases g.symm.trans h
    · exact keep rfl
    · exact store (decimalDigits (s.getV x)) hc rfl
  | storeRegs x =>
    rcases guarded_cases (checkWrite s.baseAddr (x.toNat + 1)) s _ with ⟨e, _, g⟩ | ⟨hc, g⟩ <;>
      cases g.symm.trans h
    · exact keep rfl
    · exact store (s.registerBytes 0 (x.toNat + 1)) (by simpa using hc) rfl
  | _ => cases h; exact keep rfl

/-- No key is found exactly when none from `k` on is pressed. -/
theorem leastKeyFrom_eq_none (keys : Word) (n k : Nat) :
    leastKeyFrom keys k n = none ↔ ∀ j, k ≤ j → j < k + n → keys.getLsbD j = false := by
  induction n generalizing k with
  | zero => simp only [leastKeyFrom, true_iff]; intro j h1 h2; omega
  | succ n ih =>
    rw [leastKeyFrom]
    cases hk : keys.getLsbD k with
    | true =>
      simp only [if_true, reduceCtorEq, false_iff, not_forall]
      exact ⟨k, Nat.le_refl k, by omega, by simp [hk]⟩
    | false =>
      simp only [Bool.false_eq_true, if_false, ih]
      constructor
      · intro h j h1 h2
        by_cases hj : j = k
        · rw [hj, hk]
        · exact h j (by omega) (by omega)
      · intro h j h1 h2; exact h j (by omega) (by omega)

/-- No key is found exactly when the latch is zero (40_execution_cycle.md R127). -/
theorem leastKey_eq_none (keys : Word) : leastKey keys = none ↔ keys = 0 := by
  rw [leastKey, leastKeyFrom_eq_none]
  constructor
  · intro h
    apply BitVec.eq_of_getLsbD_eq
    intro j hj
    rw [h j (Nat.zero_le j) (by omega)]; simp
  · rintro rfl j _ _; simp

/-- A pressed key below which no key from `k` on is pressed is the one that is found. -/
theorem leastKeyFrom_eq_some {keys : Word} {j : Nat} (hj : keys.getLsbD j = true) :
    ∀ (n k : Nat), k ≤ j → j < k + n → (∀ l, k ≤ l → l < j → keys.getLsbD l = false) →
      leastKeyFrom keys k n = some (BitVec.ofNat 4 j) := by
  intro n
  induction n with
  | zero => intro k h1 h2; omega
  | succ n ih =>
    intro k h1 h2 h
    rw [leastKeyFrom]
    by_cases e : k = j
    · subst e; simp [hj]
    · rw [h k (Nat.le_refl k) (by omega), if_neg Bool.false_ne_true]
      exact ih (k + 1) (by omega) (by omega) fun l h1 h2 => h l (by omega) h2

/-- The least pressed key is the one that is found (40_execution_cycle.md R127). -/
theorem leastKey_eq_some {keys : Word} {k : Nibble} (hk : keys.getLsbD k.toNat = true)
    (h : ∀ j : Nibble, j.toNat < k.toNat → keys.getLsbD j.toNat = false) : leastKey keys = some k := by
  have e := leastKeyFrom_eq_some hk 16 0 (Nat.zero_le _) (by have := k.isLt; omega) fun l _ hl => by
    have := h (BitVec.ofNat 4 l) (by have := k.isLt; simp; omega)
    have hm : l % 16 = l := Nat.mod_eq_of_lt (by have := k.isLt; omega)
    simpa [hm] using this
  rw [leastKey, e, BitVec.ofNat_toNat, BitVec.setWidth_eq]

end Sys2Proof.Machine
end

