-- ==== Sys2Proof/Laws/PerInstr.lean ====
section
/-! SUPPORT. Lemmas stated per instruction. RowSelects: the word of an instruction is selected by the row of the opcode map
that is named for it (spec/30_encoding.md R95). -/

namespace Sys2Proof

/-- The mask and the match of the row of an instruction (30_encoding.md R95). A word that selects no row at all has no row:
`none`. -/
def rowOf : Instr → Option (Word × Word)
  | .cls => some (0xFFFF, 0x00E0)
  | .ret => some (0xFFFF, 0x00EE)
  | .unknown _ => none
  | .jp _ => some (0xF000, 0x1000)
  | .call _ => some (0xF000, 0x2000)
  | .seImm _ _ => some (0xF000, 0x3000)
  | .sneImm _ _ => some (0xF000, 0x4000)
  | .seReg _ _ => some (0xF00F, 0x5000)
  | .ldImm _ _ => some (0xF000, 0x6000)
  | .addImm _ _ => some (0xF000, 0x7000)
  | .ldReg _ _ => some (0xF00F, 0x8000)
  | .or _ _ => some (0xF00F, 0x8001)
  | .and _ _ => some (0xF00F, 0x8002)
  | .xor _ _ => some (0xF00F, 0x8003)
  | .addReg _ _ => some (0xF00F, 0x8004)
  | .sub _ _ => some (0xF00F, 0x8005)
  | .shr _ _ => some (0xF00F, 0x8006)
  | .subn _ _ => some (0xF00F, 0x8007)
  | .shl _ _ => some (0xF00F, 0x800E)
  | .sneReg _ _ => some (0xF00F, 0x9000)
  | .ldI _ => some (0xF000, 0xA000)
  | .jpV0 _ => some (0xF000, 0xB000)
  | .rnd _ _ => some (0xF000, 0xC000)
  | .drw _ _ _ => some (0xF000, 0xD000)
  | .skp _ => some (0xF0FF, 0xE09E)
  | .sknp _ => some (0xF0FF, 0xE0A1)
  | .ldVxDt _ => some (0xF0FF, 0xF007)
  | .ldVxK _ => some (0xF0FF, 0xF00A)
  | .ldDtVx _ => some (0xF0FF, 0xF015)
  | .ldStVx _ => some (0xF0FF, 0xF018)
  | .addIVx _ => some (0xF0FF, 0xF01E)
  | .ldFVx _ => some (0xF0FF, 0xF029)
  | .ldBVx _ => some (0xF0FF, 0xF033)
  | .storeRegs _ => some (0xF0FF, 0xF055)
  | .loadRegs _ => some (0xF0FF, 0xF065)

/-- The word of the instruction agrees with its row's match under its row's mask; an unknown word is one of
30_encoding.md R97's. -/
def rowAgrees (i : Instr) : Bool :=
  match rowOf i with
  | some (mask, pattern) => encode i &&& mask == pattern
  | none => isUnknownWord (encode i)

/-- Every well-formed instruction's word selects its row (30_encoding.md R95). -/
def Laws.RowSelects.Statement (i : Instr) : Prop := WellFormed i → rowAgrees i = true

/-- The conjunction of two concatenations, part by part. -/
theorem append_and {n m : Nat} (a b : BitVec n) (c d : BitVec m) : (a ++ c) &&& (b ++ d) = (a &&& b) ++ (c &&& d) := by
  ext i hi
  simp only [BitVec.getElem_and, BitVec.getElem_append]
  split <;> rfl

theorem nibble_and_ones (p : Nibble) : p &&& 0xF#4 = p := by revert p; decide

/-- The format NNN under its mask (30_encoding.md R91). -/
theorem format_nnn (p : Nibble) (nnn : Addr12) : (p ++ nnn : Word) &&& 0xF000 = p ++ 0#12 := by
  have h : (0xF000 : Word) = 0xF#4 ++ 0#12 := by decide
  rw [h, append_and, nibble_and_ones, BitVec.and_zero]

/-- The format XNN under its mask (30_encoding.md R91). -/
theorem format_xnn (p x : Nibble) (nn : Byte) : (p ++ x ++ nn : Word) &&& 0xF000 = p ++ 0#12 := by
  have h : (0xF000 : Word) = (0xF#4 ++ 0x0#4) ++ 0#8 := by decide
  simp only [h, append_and, nibble_and_ones, BitVec.and_zero]
  revert p; decide

/-- The format XYN with an immediate N under its mask (30_encoding.md R91). -/
theorem format_xyn (p x y n : Nibble) : (p ++ x ++ y ++ n : Word) &&& 0xF000 = p ++ 0#12 := by
  have h : (0xF000 : Word) = (0xF#4 ++ 0x0#4 ++ 0x0#4) ++ 0x0#4 := by decide
  simp only [h, append_and, nibble_and_ones, BitVec.and_zero]
  revert p; decide

theorem Laws.RowSelects.cls : Laws.RowSelects.Statement .cls := fun _ => by decide
theorem Laws.RowSelects.ret : Laws.RowSelects.Statement .ret := fun _ => by decide
theorem Laws.RowSelects.unknown (w : Word) : Laws.RowSelects.Statement (.unknown w) := fun h => h
theorem Laws.RowSelects.jp (nnn : Addr12) : Laws.RowSelects.Statement (.jp nnn) :=
  fun _ => by simp only [rowAgrees, rowOf, encode, format_nnn]; decide
theorem Laws.RowSelects.call (nnn : Addr12) : Laws.RowSelects.Statement (.call nnn) :=
  fun _ => by simp only [rowAgrees, rowOf, encode, format_nnn]; decide
theorem Laws.RowSelects.seImm (x : Nibble) (nn : Byte) : Laws.RowSelects.Statement (.seImm x nn) :=
  fun _ => by simp only [rowAgrees, rowOf, encode, format_xnn]; decide
theorem Laws.RowSelects.sneImm (x : Nibble) (nn : Byte) : Laws.RowSelects.Statement (.sneImm x nn) :=
  fun _ => by simp only [rowAgrees, rowOf, encode, format_xnn]; decide
theorem Laws.RowSelects.seReg (x : Nibble) (y : Nibble) : Laws.RowSelects.Statement (.seReg x y) :=
  fun _ => by revert x y; decide +kernel
theorem Laws.RowSelects.ldImm (x : Nibble) (nn : Byte) : Laws.RowSelects.Statement (.ldImm x nn) :=
  fun _ => by simp only [rowAgrees, rowOf, encode, format_xnn]; decide
theorem Laws.RowSelects.addImm (x : Nibble) (nn : Byte) : Laws.RowSelects.Statement (.addImm x nn) :=
  fun _ => by simp only [rowAgrees, rowOf, encode, format_xnn]; decide
theorem Laws.RowSelects.ldReg (x : Nibble) (y : Nibble) : Laws.RowSelects.Statement (.ldReg x y) :=
  fun _ => by revert x y; decide +kernel
theorem Laws.RowSelects.or (x : Nibble) (y : Nibble) : Laws.RowSelects.Statement (.or x y) :=
  fun _ => by revert x y; decide +kernel
theorem Laws.RowSelects.and (x : Nibble) (y : Nibble) : Laws.RowSelects.Statement (.and x y) :=
  fun _ => by revert x y; decide +kernel
theorem Laws.RowSelects.xor (x : Nibble) (y : Nibble) : Laws.RowSelects.Statement (.xor x y) :=
  fun _ => by revert x y; decide +kernel
theorem Laws.RowSelects.addReg (x : Nibble) (y : Nibble) : Laws.RowSelects.Statement (.addReg x y) :=
  fun _ => by revert x y; decide +kernel
theorem Laws.RowSelects.sub (x : Nibble) (y : Nibble) : Laws.RowSelects.Statement (.sub x y) :=
  fun _ => by revert x y; decide +kernel
theorem Laws.RowSelects.shr (x : Nibble) (y : Nibble) : Laws.RowSelects.Statement (.shr x y) :=
  fun _ => by revert x y; decide +kernel
theorem Laws.RowSelects.subn (x : Nibble) (y : Nibble) : Laws.RowSelects.Statement (.subn x y) :=
  fun _ => by revert x y; decide +kernel
theorem Laws.RowSelects.shl (x : Nibble) (y : Nibble) : Laws.RowSelects.Statement (.shl x y) :=
  fun _ => by revert x y; decide +kernel
theorem Laws.RowSelects.sneReg (x : Nibble) (y : Nibble) : Laws.RowSelects.Statement (.sneReg x y) :=
  fun _ => by revert x y; decide +kernel
theorem Laws.RowSelects.ldI (nnn : Addr12) : Laws.RowSelects.Statement (.ldI nnn) :=
  fun _ => by simp only [rowAgrees, rowOf, encode, format_nnn]; decide
theorem Laws.RowSelects.jpV0 (nnn : Addr12) : Laws.RowSelects.Statement (.jpV0 nnn) :=
  fun _ => by simp only [rowAgrees, rowOf, encode, format_nnn]; decide
theorem Laws.RowSelects.rnd (x : Nibble) (nn : Byte) : Laws.RowSelects.Statement (.rnd x nn) :=
  fun _ => by simp only [rowAgrees, rowOf, encode, format_xnn]; decide
theorem Laws.RowSelects.drw (x : Nibble) (y : Nibble) (n : Nibble) : Laws.RowSelects.Statement (.drw x y n) :=
  fun _ => by simp only [rowAgrees, rowOf, encode, format_xyn]; decide
theorem Laws.RowSelects.skp (x : Nibble) : Laws.RowSelects.Statement (.skp x) :=
  fun _ => by revert x; decide +kernel
theorem Laws.RowSelects.sknp (x : Nibble) : Laws.RowSelects.Statement (.sknp x) :=
  fun _ => by revert x; decide +kernel
theorem Laws.RowSelects.ldVxDt (x : Nibble) : Laws.RowSelects.Statement (.ldVxDt x) :=
  fun _ => by revert x; decide +kernel
theorem Laws.RowSelects.ldVxK (x : Nibble) : Laws.RowSelects.Statement (.ldVxK x) :=
  fun _ => by revert x; decide +kernel
theorem Laws.RowSelects.ldDtVx (x : Nibble) : Laws.RowSelects.Statement (.ldDtVx x) :=
  fun _ => by revert x; decide +kernel
theorem Laws.RowSelects.ldStVx (x : Nibble) : Laws.RowSelects.Statement (.ldStVx x) :=
  fun _ => by revert x; decide +kernel
theorem Laws.RowSelects.addIVx (x : Nibble) : Laws.RowSelects.Statement (.addIVx x) :=
  fun _ => by revert x; decide +kernel
theorem Laws.RowSelects.ldFVx (x : Nibble) : Laws.RowSelects.Statement (.ldFVx x) :=
  fun _ => by revert x; decide +kernel
theorem Laws.RowSelects.ldBVx (x : Nibble) : Laws.RowSelects.Statement (.ldBVx x) :=
  fun _ => by revert x; decide +kernel
theorem Laws.RowSelects.storeRegs (x : Nibble) : Laws.RowSelects.Statement (.storeRegs x) :=
  fun _ => by revert x; decide +kernel
theorem Laws.RowSelects.loadRegs (x : Nibble) : Laws.RowSelects.Statement (.loadRegs x) :=
  fun _ => by revert x; decide +kernel

end Sys2Proof
end

