-- ==== Sys2Proof/Tests/Slice0.lean ====
section
/-! SUPPORT. Tests, each with the vector of spec/95_test_vectors.md or the rule its expected result comes from, and for each
obligation with hypotheses a witness that meets them. -/

namespace Sys2Proof.Tests

open Sys2Proof.Machine

/-! ### Helpers -/

/-- The reset state with a given mode and plain values for the other arguments of `Construct`. -/
def start (mode : Mode) : State := { State.reset with mode := mode, cpt := 1, last := 0 }

/-- Registers set one after the other. -/
def setVs (s : State) (vs : List (Nibble × Byte)) : State := vs.foldl (fun t p => t.setV p.1 p.2) s

/-- Bytes placed in memory. -/
def put (s : State) (a : Nat) (bytes : List Byte) : State := { s with mem := Memory.writeBytes s.mem a bytes }

/-- A word placed where the next fetch is. -/
def putWord (s : State) (w : Word) : State := put s s.pc.toNat (bytesOfWord w)

/-- A result is a next state with a property. -/
def check (r : Result) (p : State → Bool) : Bool :=
  match r with
  | .next t => p t
  | .fault _ | .refused _ => false

/-- A result is the entry to `Halted` with an error and the program counter of the state before. -/
def haltsWith (r : Result) (s : State) (e : FatalError) : Bool :=
  check r fun t => decide (t.engine = .halted ∧ t.err = some e ∧ t.pc = s.pc)

/-- The set pixels of some rows, as (column, row), row by row. -/
def lit (rows : List (Fin 32)) (s : State) : List (Nat × Nat) :=
  rows.flatMap fun y => (List.finRange 64).filterMap fun x =>
    if Display.pixel s.disp x y then some (x.val, y.val) else none

/-! ### Well-formedness: ill-formed terms are refused (30_encoding.md R97) -/

theorem test_unknown_of_a_known_word_is_ill_formed : wellFormed (.unknown 0x6A2B) = false := by decide
theorem test_unknown_of_cls_is_ill_formed : wellFormed (.unknown 0x00E0) = false := by decide
theorem test_unknown_of_an_unknown_word_is_well_formed : wellFormed (.unknown 0x00E1) = true := by decide

/-! ### Decoding: words written out bit by bit from 30_encoding.md R95 -/


theorem test_decode_display_and_control :
    decodeWord 0b0000000011100000 = .cls ∧
    decodeWord 0b0000000011101110 = .ret ∧
    decodeWord 0b0000000100100011 = .unknown 0x0123 ∧
    decodeWord 0b0001101010111100 = .jp 0xABC ∧
    decodeWord 0b0010101010111100 = .call 0xABC ∧
    decodeWord 0b0011101001000010 = .seImm 0xA 0x42 ∧
    decodeWord 0b0100101001000010 = .sneImm 0xA 0x42 ∧
    decodeWord 0b0101000100100000 = .seReg 1 2 ∧
    decodeWord 0b1001000100100000 = .sneReg 1 2 ∧
    decodeWord 0b1011001100000000 = .jpV0 0x300 ∧
    decodeWord 0b1101000100100101 = .drw 1 2 5 := by decide


theorem test_decode_arithmetic :
    decodeWord 0b0110101000101011 = .ldImm 0xA 0x2B ∧
    decodeWord 0b0111001111111111 = .addImm 3 0xFF ∧
    decodeWord 0b1000000100100000 = .ldReg 1 2 ∧
    decodeWord 0b1000000100100001 = .or 1 2 ∧
    decodeWord 0b1000000100100010 = .and 1 2 ∧
    decodeWord 0b1000000100100011 = .xor 1 2 ∧
    decodeWord 0b1000000100100100 = .addReg 1 2 ∧
    decodeWord 0b1000000100100101 = .sub 1 2 ∧
    decodeWord 0b1000000100100110 = .shr 1 2 ∧
    decodeWord 0b1000000100100111 = .subn 1 2 ∧
    decodeWord 0b1000000100101110 = .shl 1 2 ∧
    decodeWord 0b1100010111110000 = .rnd 5 0xF0 := by decide


theorem test_decode_index_and_memory :
    decodeWord 0b1010111111111111 = .ldI 0xFFF ∧
    decodeWord 0b1111001100011110 = .addIVx 3 ∧
    decodeWord 0b1111010000101001 = .ldFVx 4 ∧
    decodeWord 0b1111010100110011 = .ldBVx 5 ∧
    decodeWord 0b1111001001010101 = .storeRegs 2 ∧
    decodeWord 0b1111000101100101 = .loadRegs 1 := by decide


theorem test_decode_keypad_and_timers :
    decodeWord 0b1110000110011110 = .skp 1 ∧
    decodeWord 0b1110000110100001 = .sknp 1 ∧
    decodeWord 0b1111001100001010 = .ldVxK 3 ∧
    decodeWord 0b1111010000000111 = .ldVxDt 4 ∧
    decodeWord 0b1111001100010101 = .ldDtVx 3 ∧
    decodeWord 0b1111001100011000 = .ldStVx 3 := by decide


theorem test_decode_unknown_words :
    decodeWord 0b0101000100100001 = .unknown 0x5121 ∧
    decodeWord 0b1001000000000001 = .unknown 0x9001 ∧
    decodeWord 0b1000000100101000 = .unknown 0x8128 ∧
    decodeWord 0b1110000110011111 = .unknown 0xE19F ∧
    decodeWord 0b1111000111111111 = .unknown 0xF1FF ∧
    decodeWord 0b1111000101110101 = .unknown 0xF175 := by decide


/-- 20_memory.md R60, the source's S11: the first byte is the high half. -/
theorem test_decode_bytes_big_endian : decode [0x12, 0x34, 0x56] = .ok (.jp 0x234, [0x56]) := by rfl

theorem test_decode_one_byte_is_truncated : decode [0x12] = .error .truncated := by rfl

theorem test_decodeTableWord : decodeTableWord 16 0x8124 = some (.addReg 1 2) := by decide

/-- The word placed by `withFetchWord` is the first that runs from reset (log 10). -/
theorem test_withFetchWord_runs_it :
    check (step (State.reset.withFetchWord 16 0x6A2B)) (fun t => t.getV 0xA == 0x2B && t.pc == 0x202) = true := by decide


/-! ### Arithmetic (41_arithmetic_bitwise.md), vectors of 95_test_vectors.md section 2.1 -/

/-- T-A1 -/
theorem test_ldImm :
    check (exec (.ldImm 0xA 0x2B) (start .legacy))
      (fun t => t.getV 0xA == 0x2B && t.pc == 0x202) = true := by decide

/-- T-A2 -/
theorem test_addImm_wraps :
    check (exec (.addImm 3 0xFF) (setVs (start .legacy) [(3, 0x02)]))
      (fun t => t.getV 3 == 0x01 && t.getV 0xF == 0) = true := by decide

/-- T-A23 -/
theorem test_ldReg :
    check (exec (.ldReg 1 2) (setVs (start .legacy) [(2, 0x7C)]))
      (fun t => t.getV 1 == 0x7C && t.getV 2 == 0x7C) = true := by decide

/-- T-A35 -/
theorem test_or_keeps_flag :
    check (exec (.or 1 2) (setVs (start .legacy) [(1, 0xF0), (2, 0x0F), (0xF, 1)]))
      (fun t => t.getV 1 == 0xFF && t.getV 0xF == 1) = true := by decide

/-- T-A36 -/
theorem test_and :
    check (exec (.and 1 2) (setVs (start .legacy) [(1, 0x0C), (2, 0x0A)]))
      (fun t => t.getV 1 == 0x08) = true := by decide

/-- T-A37 -/
theorem test_xor_keeps_flag :
    check (exec (.xor 4 4) (setVs (start .legacy) [(4, 0x5A), (0xF, 1)]))
      (fun t => t.getV 4 == 0 && t.getV 0xF == 1) = true := by decide

/-- T-A7 -/
theorem test_addReg_carry :
    check (exec (.addReg 1 2) (setVs (start .legacy) [(1, 0xF0), (2, 0x20)]))
      (fun t => t.getV 1 == 0x10 && t.getV 0xF == 1) = true := by decide

/-- T-A10 -/
theorem test_addReg_flag_wins :
    check (exec (.addReg 0xF 1) (setVs (start .legacy) [(0xF, 0x10), (1, 0x20)]))
      (fun t => t.getV 0xF == 0) = true := by decide

/-- T-A15 -/
theorem test_sub_borrow :
    check (exec (.sub 1 2) (setVs (start .legacy) [(1, 0x05), (2, 0x07), (0xF, 1)]))
      (fun t => t.getV 1 == 0xFE && t.getV 0xF == 0) = true := by decide

/-- T-A14 -/
theorem test_sub_equal_is_no_borrow :
    check (exec (.sub 1 2) (setVs (start .legacy) [(1, 0x07), (2, 0x07)]))
      (fun t => t.getV 1 == 0 && t.getV 0xF == 1) = true := by decide

/-- T-A19 -/
theorem test_subn_borrow :
    check (exec (.subn 1 2) (setVs (start .legacy) [(1, 0x50), (2, 0x20)]))
      (fun t => t.getV 1 == 0xD0 && t.getV 0xF == 0) = true := by decide

/-- T-A20 -/
theorem test_subn :
    check (exec (.subn 1 2) (setVs (start .legacy) [(1, 0x05), (2, 0x07)]))
      (fun t => t.getV 1 == 0x02 && t.getV 0xF == 1) = true := by decide

/-- T-A24 -/
theorem test_shr_legacy :
    check (exec (.shr 1 2) (setVs (start .legacy) [(1, 0x08), (2, 0x05)]))
      (fun t => t.getV 1 == 0x02 && t.getV 2 == 0x05 && t.getV 0xF == 1) = true := by decide

/-- T-A25 -/
theorem test_shr_chip48 :
    check (exec (.shr 1 2) (setVs (start .chip48) [(1, 0x08), (2, 0x05)]))
      (fun t => t.getV 1 == 0x04 && t.getV 2 == 0x05 && t.getV 0xF == 0) = true := by decide

/-- T-A31 -/
theorem test_shl_legacy :
    check (exec (.shl 1 2) (setVs (start .legacy) [(1, 0x81), (2, 0x41)]))
      (fun t => t.getV 1 == 0x82 && t.getV 0xF == 0) = true := by decide

/-- T-A32 -/
theorem test_shl_chip48 :
    check (exec (.shl 1 2) (setVs (start .chip48) [(1, 0x81), (2, 0x41)]))
      (fun t => t.getV 1 == 0x02 && t.getV 0xF == 1) = true := by decide

/-- T-A39, with the random byte 0xAB. -/
theorem test_rnd_mask : ((start .legacy).drawInto 0xAB 5 0xF0).getV 5 = 0xA0 := by decide

/-- R164, log 2 -/
theorem test_rnd_counts_the_draw :
    check (exec (.rnd 5 0xF0) (start .legacy))
      (fun t => t.draws == 1 && t.pc == 0x202) = true := by decide


/-! ### Control transfer (42_control_flow.md), section 2.2 -/

/-- T-C1 -/
theorem test_jp :
    check (exec (.jp 0xABC) (start .legacy))
      (fun t => t.pc == 0x0ABC) = true := by decide

/-- T-C4 -/
theorem test_call_16th_level :
    check (exec (.call 0xABC) { start .legacy with sp := 15 })
      (fun t => t.sp == 16 && t.stackAt 15 == 0x0202 && t.pc == 0x0ABC) = true := by decide

/-- T-C5 -/
theorem test_call_overflow :
    haltsWith (exec (.call 0xABC) { start .legacy with sp := 16 }) (start .legacy) .stackOverflow = true := by decide

/-- T-C7 -/
theorem test_ret :
    check (exec .ret { start .legacy with sp := 2, stack := ((start .legacy).stack.set 0 0x0300).set 1 0x0456 })
      (fun t => t.sp == 1 && t.pc == 0x0456 && t.stackAt 1 == 0x0456) = true := by decide

/-- T-C6 -/
theorem test_ret_underflow : haltsWith (exec .ret (start .legacy)) (start .legacy) .stackUnderflow = true := by decide

/-- T-C11 -/
theorem test_jpV0_uses_V0_in_chip48 :
    check (exec (.jpV0 0xFFF) (setVs (start .chip48) [(0, 1), (0xF, 0x80)]))
      (fun t => t.pc == 0x1000) = true := by decide

/-- T-C12 -/
theorem test_seImm :
    check (exec (.seImm 0xA 0x42) (setVs (start .legacy) [(0xA, 0x42)]))
      (fun t => t.pc == 0x204) = true := by decide

/-- T-C14 -/
theorem test_sneImm :
    check (exec (.sneImm 0xA 0x42) (setVs (start .legacy) [(0xA, 0x42)]))
      (fun t => t.pc == 0x202) = true := by decide

/-- T-C17 -/
theorem test_seReg :
    check (exec (.seReg 1 2) (setVs (start .legacy) [(1, 7), (2, 8)]))
      (fun t => t.pc == 0x202) = true := by decide

/-- T-C19 -/
theorem test_sneReg :
    check (exec (.sneReg 1 2) (setVs (start .legacy) [(1, 7), (2, 8)]))
      (fun t => t.pc == 0x204) = true := by decide

/-- T-U1: zero-filled memory executes as a no-op that is reported. -/
theorem test_unknown_is_reported :
    check (stepEvent (start .legacy)) (fun t => t.pc == 0x202 && t.engine == .running && t.err == none) = true ∧
    stepReport (start .legacy) = ⟨.executed, some 0, some (.unknown 0), none, some (.unknownOpcode 0)⟩ := by decide


/-! ### Index register and memory (43_memory_index.md), section 2.4 -/

/-- T-M1 -/
theorem test_ldI :
    check (exec (.ldI 0xFFF) (start .legacy))
      (fun t => t.I == 0x0FFF) = true := by decide

/-- T-M4 -/
theorem test_addIVx_wraps :
    check (exec (.addIVx 3) { setVs (start .legacy) [(3, 2), (0xF, 1)] with I := 0xFFFF })
      (fun t => t.I == 1 && t.getV 0xF == 1) = true := by decide

/-- T-M6 -/
theorem test_ldFVx_low_nibble :
    check (exec (.ldFVx 4) (setVs (start .legacy) [(4, 0x1A)]))
      (fun t => t.I == 0x0082) = true := by decide

/-- T-M7 and T-M9 -/
theorem test_ldBVx :
    check (exec (.ldBVx 5) { setVs (start .legacy) [(5, 156)] with I := 0x0FFD })
      (fun t => Memory.readBytes t.mem 0xFFD 3 == [1, 5, 6] && t.I == 0x0FFD) = true := by decide

/-- T-M11 -/
theorem test_ldBVx_above_the_top :
    haltsWith (exec (.ldBVx 5) { start .legacy with I := 0x0FFE }) (start .legacy) (.memoryFault .write 0x1000) = true := by
  decide

/-- T-M12 and T-M13: the same stores, `I` by mode. -/
theorem test_storeRegs_by_mode :
    check (exec (.storeRegs 2) { setVs (start .legacy) [(0, 0x11), (1, 0x22), (2, 0x33)] with I := 0x0300 })
      (fun t => Memory.readBytes t.mem 0x300 4 == [0x11, 0x22, 0x33, 0] && t.I == 0x0303) = true ∧
    check (exec (.storeRegs 2) { setVs (start .chip48) [(0, 0x11), (1, 0x22), (2, 0x33)] with I := 0x0300 })
      (fun t => Memory.readBytes t.mem 0x300 4 == [0x11, 0x22, 0x33, 0] && t.I == 0x0300) = true := by decide
/-- T-M18 -/
theorem test_storeRegs_protected :
    haltsWith (exec (.storeRegs 3) { start .legacy with I := 0x01FE }) (start .legacy)
      (.memoryFault .writeProtected 0x01FE) = true := by decide
/-- T-M23: the font is readable. -/
theorem test_loadRegs_by_mode :
    check (exec (.loadRegs 2) { start .legacy with I := 0x0050 })
      (fun t => t.getV 0 == 0xF0 && t.getV 1 == 0x90 && t.getV 2 == 0x90 && t.getV 3 == 0 && t.I == 0x0053) = true ∧
    check (exec (.loadRegs 2) { start .chip48 with I := 0x0050 }) (fun t => t.getV 2 == 0x90 && t.I == 0x0050) = true := by
  decide
/-- T-M25 -/
theorem test_loadRegs_above_the_top :
    haltsWith (exec (.loadRegs 2) { start .legacy with I := 0x0FFE }) (start .legacy) (.memoryFault .read 0x1000) = true := by
  decide

/-! ### Display (44_display.md), section 2.5 -/

/-- T-D6: glyph 0 across both edges, its second and last row. -/
theorem test_drw_wraps :
    check (exec (.drw 1 2 5) { setVs (start .legacy) [(1, 62), (2, 30)] with I := 0x0050 })
      (fun t => t.getV 0xF == 0 && lit [31, 2] t ==
        [(1, 31), (62, 31), (0, 2), (1, 2), (62, 2), (63, 2)]) = true := by decide +kernel
/-- T-D9: nothing is drawn. -/
theorem test_drw_above_the_top :
    haltsWith (exec (.drw 1 2 2) { start .legacy with I := 0x0FFF }) (start .legacy) (.memoryFault .read 0x1000) = true := by
  decide
/-- T-D8: every pixel is cleared and VF stays. -/
theorem test_cls :
    check (exec .cls { setVs (start .legacy) [(0xF, 1)] with
        disp := Display.setPixel (Display.setPixel Display.clear 0 0 true) 63 31 true })
      (fun t => lit [0, 31] t == [] && t.getV 0xF == 1 && t.pc == 0x202) = true := by decide +kernel


/-! ### Keypad and timers (45_keypad_timers.md), section 2.6 -/

/-- T-K3 -/
theorem test_skp_low_nibble :
    check (exec (.skp 1) { setVs (start .legacy) [(1, 0x15)] with keys := 0x0020 })
      (fun t => t.pc == 0x204) = true := by decide

/-- T-K5 -/
theorem test_sknp :
    check (exec (.sknp 1) { setVs (start .legacy) [(1, 0x05)] with keys := 0xFFDF })
      (fun t => t.pc == 0x204) = true := by decide

/-- T-K10 -/
theorem test_ldVxK_waits :
    check (exec (.ldVxK 3) { setVs (start .legacy) [(3, 9)] with keys := 1 })
      (fun t => t.engine == .waitingForKey && t.waitReg == 3 && t.pc == 0x200 && t.getV 3 == 9) = true := by decide

/-- T-K9 -/
theorem test_poll_takes_the_least_key :
    check (stepEvent { start .legacy with engine := .waitingForKey, waitReg := 3, keys := 0x0480 })
      (fun t => t.getV 3 == 7 && t.pc == 0x202 && t.engine == .running && t.keys == 0x0480) = true := by decide

/-- T-T1 -/
theorem test_ldDtVx :
    check (exec (.ldDtVx 3) (setVs (start .legacy) [(3, 5)]))
      (fun t => t.dt == 5 && t.st == 0) = true := by decide

/-- T-T2 -/
theorem test_ldStVx_tone :
    check (exec (.ldStVx 3) (setVs (start .legacy) [(3, 5)]))
      (fun t => t.st == 5 && t.dt == 0 && toneOn t) = true := by decide

/-- T-T4 -/
theorem test_ldVxDt :
    check (exec (.ldVxDt 4) { start .legacy with dt := 3 })
      (fun t => t.getV 4 == 3 && t.dt == 3) = true := by decide


/-! ### Events (40_execution_cycle.md, 60_exceptions.md, 70_reset_and_hazards.md), sections 2.7 and 2.8 -/


/-- T-T6 -/
theorem test_tick_clamps :
    check (applyEvent .tick { start .legacy with dt := 1 })
      (fun t => t.dt == 0 && t.st == 0) = true := by decide

/-- T-T8: due at the second call, not at the first. -/
theorem test_tickIfDue :
    check (applyEvent (.tickIfDue (1 / 120)) { start .legacy with dt := 200 }) (fun t => t.dt == 200 && t.last == 0) = true ∧
    check (applyEvent (.tickIfDue (2 / 120)) { start .legacy with dt := 200 })
      (fun t => t.dt == 199 && t.last == 1 / 60) = true := by decide +kernel

/-- Program P1 of 95_test_vectors.md part 3. -/
def p1 : List Byte := [0x60, 5, 0x61, 0, 0x81, 0x04, 0x70, 0xFF, 0x30, 0, 0x12, 0x04, 0x12, 0x0C]

/-- T-E3: four instructions of P1. -/
theorem test_singleStep_runs_four :
    check (applyEvent .singleStep { setVs (put (start .legacy) 0x200 p1) [(0, 5)] with pc := 0x204, engine := .paused })
      (fun t => t.getV 0 == 4 && t.getV 1 == 5 && t.getV 0xF == 0 && t.pc == 0x204 && t.engine == .paused) = true := by
  decide
/-- T-E7: `Reset` leaves `Halted`; memory above the font and the latch stay. -/
theorem test_reset_leaves_halted :
    check (applyEvent .reset { put (start .chip48) 0x200 p1 with engine := .halted, err := some .stackOverflow, sp := 16, keys := 3 })
      (fun t => t.engine == .running && t.err == none && t.sp == 0 && t.keys == 3 && t.mode == .chip48 &&
        Memory.readBytes t.mem 0x200 2 == [0x60, 5]) = true := by decide
/-- S12: 3585 bytes are too many. -/
theorem test_load_too_large :
    loadResult (List.replicate 3585 0) = .romTooLarge ∧ loadResult (List.replicate 3584 0) = .ok := by decide +kernel


/-! ### Witnesses: for each obligation with hypotheses, states and operands that meet them, each clause at a boundary -/

theorem witness_AddSetsSumAndCarry :
    (0xE : Nibble) ≠ 0xF := by
  decide

theorem witness_SubtractSetsDifferenceAndNoBorrow :
    (0xE : Nibble) ≠ 0xF := by
  decide

theorem witness_ShiftsFollowMode :
    (0xE : Nibble) ≠ 0xF ∧
    (5 : Byte) = (if (setVs (start .legacy) [(1, 8), (2, 5)]).mode = .legacy then (setVs (start .legacy) [(1, 8), (2, 5)]).getV 2
      else (setVs (start .legacy) [(1, 8), (2, 5)]).getV 1) ∧
    (8 : Byte) = (if (setVs (start .chip48) [(1, 8), (2, 5)]).mode = .legacy then (setVs (start .chip48) [(1, 8), (2, 5)]).getV 2
      else (setVs (start .chip48) [(1, 8), (2, 5)]).getV 1) := by
  decide

theorem witness_RandomByteIsMasked :
    (0xF0 : Byte).getLsbD 3 = false ∧ (0xF0 : Byte).getLsbD 8 = false := by
  decide

theorem witness_CallPushesReturnAddress :
    ({ start .legacy with sp := 15 } : State).sp.val < 16 ∧ ({ start .legacy with sp := 16 } : State).sp.val = 16 := by
  decide

theorem witness_RetTakesReturnAddress :
    ({ start .legacy with sp := 16 } : State).sp.val = (15 : Fin 16).val + 1 ∧
    ({ start .legacy with sp := 1 } : State).sp.val = (0 : Fin 16).val + 1 ∧ (start .legacy).sp.val = 0 := by
  decide

theorem witness_ReturnComesBackAfterTheCall :
    ({ start .legacy with sp := 15 } : State).sp.val < 16 := by
  decide

theorem witness_SkipsCompareRegisters :
    (1 : Nibble) ≠ 0 := by
  decide

theorem witness_UnknownWordsAreReportedNoOps :
    ((0x0E1 : Addr12) ≠ 0x0E0 ∧ (0x0E1 : Addr12) ≠ 0x0EE) ∧
    (start .legacy).engine = .running ∧ (start .legacy).fetch = .ok 0 ∧ decodeWord 0 = .unknown 0 := by
  refine ⟨by decide, rfl, rfl, by decide⟩

theorem witness_DecimalStore :
    (∀ a : Word, Memory.wf ({ start .legacy with I := a } : State).mem) ∧
    (0x200 ≤ ({ start .legacy with I := 0x200 } : State).baseAddr ∧ ({ start .legacy with I := 0x200 } : State).baseAddr + 2 ≤ 0xFFF) ∧
    (0x200 ≤ ({ start .legacy with I := 0xFFD } : State).baseAddr ∧ ({ start .legacy with I := 0xFFD } : State).baseAddr + 2 ≤ 0xFFF) ∧
    ({ start .legacy with I := 0x1FF } : State).baseAddr < 0x200 ∧
    ({ start .legacy with I := 0xFFE } : State).baseAddr + 2 > 0xFFF := by
  refine ⟨fun a => ⟨List.Pairwise.nil, by simp [start, State.reset]⟩, ?_⟩
  decide

theorem witness_RegisterStore :
    Memory.wf (start .legacy).mem ∧
    (0x200 ≤ ({ start .legacy with I := 0xFF0 } : State).baseAddr ∧
      ({ start .legacy with I := 0xFF0 } : State).baseAddr + (0xF : Nibble).toNat ≤ 0xFFF) ∧
    ({ start .legacy with I := 0x1FF } : State).baseAddr < 0x200 ∧
    ({ start .legacy with I := 0xFF1 } : State).baseAddr + (0xF : Nibble).toNat > 0xFFF := by
  refine ⟨⟨List.Pairwise.nil, by simp [start, State.reset]⟩, ?_⟩
  decide

theorem witness_RegisterLoad :
    ({ start .legacy with I := 0xFF0 } : State).baseAddr + (0xF : Nibble).toNat ≤ 0xFFF ∧
    ({ start .legacy with I := 0xFF1 } : State).baseAddr + (0xF : Nibble).toNat > 0xFFF := by
  decide

theorem witness_ClearZeroesTheDisplay :
    (putWord (start .legacy) 0x00E0).engine = .running ∧ (putWord (start .legacy) 0x00E0).fetch = .ok 0x00E0 :=
  ⟨rfl, rfl⟩

theorem witness_DrawInvertsSpritePixels :
    ((0 : Nibble) = 0 ∨ ({ start .legacy with I := 0xFFFF } : State).baseAddr + (0 : Nibble).toNat - 1 ≤ 0xFFF) ∧
    ((1 : Nibble) = 0 ∨ ({ start .legacy with I := 0xFFF } : State).baseAddr + (1 : Nibble).toNat - 1 ≤ 0xFFF) ∧
    ((2 : Nibble) ≠ 0 ∧ ({ start .legacy with I := 0xFFF } : State).baseAddr + (2 : Nibble).toNat - 1 > 0xFFF) ∧
    (putWord (start .legacy) (wordXYN 0xD000 1 2 5)).engine = .running ∧
    (putWord (start .legacy) (wordXYN 0xD000 1 2 5)).fetch = .ok (wordXYN 0xD000 1 2 5) :=
  ⟨by decide, by decide, by decide, rfl, rfl⟩

theorem witness_DrawingTwiceRestoresTheDisplay :
    (1 : Nibble) ≠ 0xF ∧ (2 : Nibble) ≠ 0xF ∧ ({ start .legacy with I := 0x50 } : State).baseAddr + (5 : Nibble).toNat - 1 ≤ 0xFFF ∧
    Display.pixel ({ start .legacy with I := 0x50 } : State).disp 0 0 = false ∧
    check (exec (.drw 1 2 5) { start .legacy with I := 0x50 }) (fun t => Display.pixel t.disp 0 0) = true := by
  decide +kernel

theorem witness_KeyWaitEnters :
    (putWord (start .legacy) (wordX 0xF00A 3)).engine = .running ∧
    (putWord (start .legacy) (wordX 0xF00A 3)).fetch = .ok (wordX 0xF00A 3) :=
  ⟨rfl, rfl⟩

/-- A state that waits for a key, with a given latch. -/
def waiting (keys : Word) : State := { start .legacy with engine := .waitingForKey, waitReg := 0xF, keys := keys }

theorem witness_PollTakesTheLeastKey :
    ((waiting 0).engine = .waitingForKey ∧ (waiting 0).keys = 0) ∧
    ((waiting 0x8000).keys.getLsbD (15 : Nibble).toNat = true ∧
      ∀ j : Nibble, j.toNat < (15 : Nibble).toNat → (waiting 0x8000).keys.getLsbD j.toNat = false) ∧
    ((waiting 0xFFFF).keys.getLsbD (0 : Nibble).toNat = true ∧
      ∀ j : Nibble, j.toNat < (0 : Nibble).toNat → (waiting 0xFFFF).keys.getLsbD j.toNat = false) := by
  decide

theorem witness_TimerReadsAndWrites :
    ((putWord (start .legacy) (wordX 0xF015 3)).engine = .running ∧
      (putWord (start .legacy) (wordX 0xF015 3)).fetch = .ok (wordX 0xF015 3)) ∧
    ((putWord (start .legacy) (wordX 0xF018 3)).engine = .running ∧
      (putWord (start .legacy) (wordX 0xF018 3)).fetch = .ok (wordX 0xF018 3)) :=
  ⟨⟨rfl, rfl⟩, rfl, rfl⟩

theorem witness_FetchIsBigEndian :
    ({ start .legacy with pc := 0xFFE } : State).pc.toNat ≤ 0xFFE ∧ ({ start .legacy with pc := 0xFFF } : State).pc.toNat > 0xFFE := by
  decide

theorem witness_ByteAccessesAreChecked :
    0x1000 > 0xFFF ∧ 0xFFF ≤ 0xFFF ∧ 0x1FF < 0x200 ∧ (0x200 ≤ 0x200 ∧ 0x200 ≤ 0xFFF) ∧ (0x200 ≤ 0xFFF ∧ 0xFFF ≤ 0xFFF) ∧
    Memory.wf (start .legacy).mem :=
  ⟨by decide, by decide, by decide, by decide, by decide, List.Pairwise.nil, by simp [start, State.reset]⟩

theorem witness_WriteCheckAgreesWithByteStores :
    ([0] : List Byte) ≠ [] := by
  decide

/-- A test's step and its result, as an equation. -/
theorem check_next {r : Result} {p : State → Bool} (h : check r p = true) : ∃ t, r = .next t ∧ p t = true := by
  cases r with
  | next t => exact ⟨t, rfl, h⟩
  | fault f => cases h
  | refused f => cases h

theorem witness_CodeStaysEven :
    (start .legacy).evenCode ∧ (∃ t, stepEvent (start .legacy) = .next t) ∧
    ∀ w, (start .legacy).engine = .running → (start .legacy).fetch = .ok w → ¬ jumpsToOdd (decodeWord w) (start .legacy) := by
  refine ⟨⟨by decide, fun k hk => absurd hk (Nat.not_lt_zero _)⟩, ⟨_, rfl⟩, fun w _ hw => ?_⟩
  have e : w = 0 := by cases hw; rfl
  subst e
  rw [show decodeWord 0 = .unknown 0 by decide]
  rintro (⟨_, h | h, _⟩ | ⟨_, h, _⟩) <;> cases h

theorem witness_StepRunsTheDecodedInstruction :
    (∀ es, ({ start .legacy with pc := 0xFFE, inputs := es } : State).engine = .running) ∧
    ({ start .legacy with pc := 0xFFE } : State).pc.toNat ≤ 0xFFE ∧
    decode [Memory.read (start .legacy).mem 0xFFE, Memory.read (start .legacy).mem (0xFFE + 1)] = .ok (.unknown 0, []) ∧
    (start .legacy).inputs = [] ∧ ({ start .legacy with inputs := [.step, .tick] } : State).inputs = .step :: [.tick] :=
  ⟨fun _ => rfl, by decide, rfl, rfl, rfl⟩

theorem witness_EveryStepAppliesOneEvent :
    ({ start .legacy with inputs := [.tick] } : State).inputs = .tick :: [] ∧ (start .legacy).inputs = [] :=
  ⟨rfl, rfl⟩

theorem witness_PlacedWordRunsNext :
    Memory.wf (start .legacy).mem :=
  ⟨List.Pairwise.nil, by simp [start, State.reset]⟩

theorem witness_FetchAboveTheTopHalts :
    ({ start .legacy with pc := 0xFFF } : State).engine = .running ∧ ({ start .legacy with pc := 0xFFF } : State).pc.toNat > 0xFFE :=
  ⟨rfl, by decide⟩

theorem witness_DefaultAdvanceIsTwo :
    setsPc .cls = false ∧ ∃ t, exec .cls (start .legacy) = .next t ∧ t.engine ≠ .halted :=
  ⟨rfl, _, rfl, by decide⟩

/-- A paused state. -/
def paused : State := { start .legacy with engine := .paused }

/-- A halted state. -/
def halted : State := { start .legacy with engine := .halted, err := some .stackOverflow }

theorem witness_PausedAndHaltedIgnoreStep :
    paused.engine = .paused ∧ halted.engine = .halted := by
  decide

theorem witness_PauseAndResume :
    (start .legacy).engine = .running ∧ halted.engine ≠ .running ∧ paused.engine = .paused ∧ halted.engine ≠ .paused := by
  decide

/-- A paused state with a program. -/
def pausedAt (bytes : List Byte) : State := { put (start .legacy) 0x200 bytes with engine := .paused }

/-- After `n` `Step`s that do not halt, the next one halts (`last`) or does not. -/
def haltsAfter : Nat → Bool → State → Bool
  | 0, last, s => check (stepEvent s) fun t => decide (t.engine = .halted) == last
  | n + 1, last, s => check (stepEvent s) fun t => !decide (t.engine = .halted) && haltsAfter n last t

/-- The `Step`s that the premises name, each answering a next state. -/
theorem witness_SingleStepRunsFourSteps :
    (start .legacy).engine ≠ .paused ∧ (pausedAt []).engine = .paused ∧
    haltsAfter 0 true ((pausedAt [0x00, 0xEE]).setEngine .running) = true ∧
    haltsAfter 1 true ((pausedAt [0x60, 1, 0x00, 0xEE]).setEngine .running) = true ∧
    haltsAfter 2 true ((pausedAt [0x60, 1, 0x60, 1, 0x00, 0xEE]).setEngine .running) = true ∧
    haltsAfter 3 true ((pausedAt [0x60, 1, 0x60, 1, 0x60, 1, 0x00, 0xEE]).setEngine .running) = true ∧
    haltsAfter 3 false ((pausedAt []).setEngine .running) = true := by
  decide

/-- Every row of the table, each event answering a next state. -/
theorem witness_EngineTransitionTable :
    check (applyEvent .step { start .legacy with pc := 0xFFF }) (fun t => t.engine == .halted && t.err != none) = true ∧
    check (applyEvent .step (putWord (start .legacy) 0x00EE)) (fun t => t.engine == .halted && t.err != none) = true ∧
    check (applyEvent .step (putWord (start .legacy) 0xF30A)) (fun t => t.engine == .waitingForKey) = true ∧
    check (applyEvent .step (start .legacy)) (fun t => t.engine == .running) = true ∧
    check (applyEvent .step (waiting 0)) (fun t => t.engine == .waitingForKey) = true ∧
    check (applyEvent .step (waiting 0x8000)) (fun t => t.engine == .running) = true ∧
    check (applyEvent .step paused) (fun t => t.engine == .paused) = true ∧
    check (applyEvent .step halted) (fun t => t.engine == .halted) = true ∧
    check (applyEvent .pause (start .legacy)) (fun t => t.engine == .paused) = true ∧
    check (applyEvent .pause (waiting 0)) (fun t => t.engine == .waitingForKey) = true ∧
    check (applyEvent .resume paused) (fun t => t.engine == .running) = true ∧
    check (applyEvent .resume halted) (fun t => t.engine == .halted) = true ∧
    check (applyEvent .singleStep (pausedAt [])) (fun t => t.engine == .paused) = true ∧
    check (applyEvent .singleStep (pausedAt [0x00, 0xEE])) (fun t => t.engine == .halted && t.err != none) = true ∧
    check (applyEvent .singleStep (waiting 0)) (fun t => t.engine == .waitingForKey) = true ∧
    check (applyEvent (.construct .chip48 7 1) halted) (fun t => t.engine == .running) = true ∧
    check (applyEvent .reset halted) (fun t => t.engine == .running) = true ∧
    check (applyEvent (.load [1]) halted) (fun t => t.engine == .halted) = true ∧
    check (applyEvent .tick paused) (fun t => t.engine == .paused) = true ∧
    check (applyEvent (.tickIfDue 1) (waiting 0)) (fun t => t.engine == .waitingForKey) = true ∧
    check (applyEvent (.keyWrite 1) (waiting 0)) (fun t => t.engine == .waitingForKey) = true ∧
    check (applyEvent .dumpState halted) (fun t => t.engine == .halted) = true := by
  decide +kernel

theorem witness_FatalErrorsArePrecise :
    (putWord (start .legacy) 0x00EE).engine = .running ∧
    (putWord (start .legacy) 0x00EE).fetch = .ok 0x00EE ∧
    ∃ t, stepEvent (putWord (start .legacy) 0x00EE) = .next t ∧ t.engine = .halted := by
  refine ⟨rfl, rfl, ?_⟩
  obtain ⟨t, h, e⟩ := check_next (r := stepEvent (putWord (start .legacy) 0x00EE))
    (p := fun t => decide (t.engine = .halted)) (by decide)
  exact ⟨t, h, of_decide_eq_true e⟩

theorem witness_ErrorsHaveTheirCauses :
    (start .legacy).engine ≠ .halted ∧
    ∃ t, exec .ret (start .legacy) = .next t ∧ t.engine = .halted ∧ t.err = some .stackUnderflow :=
  ⟨by decide, _, rfl, rfl, rfl⟩

theorem witness_TickIfDueDecrementsOnce :
    (1 / 60 : Rat) - (start .legacy).last ≥ 1 / 60 ∧ (1 / 120 : Rat) - (start .legacy).last < 1 / 60 := by
  decide +kernel

theorem witness_AtMostSixtyDecrementsInASecond :
    ∀ now ∈ ([1 / 60, 1, 1 / 2] : List Rat), now ≤ (start .legacy).last + 1 := by
  decide +kernel

theorem witness_ResetReinitialises :
    (halted.engine = .halted ∧ check (applyEvent .reset halted) (fun t => t.engine == .running) = true) ∧
    Memory.wf (start .legacy).mem ∧ 79 < 80 ∧ (0x04F < 0x050 ∨ 0x0A0 ≤ 0x04F) ∧ (0x0A0 < 0x050 ∨ 0x0A0 ≤ 0x0A0) :=
  ⟨by decide, ⟨List.Pairwise.nil, by simp [start, State.reset]⟩, by decide, by decide, by decide⟩

theorem witness_ConstructInitialisesEverything :
    79 < 80 ∧ (0x04F < 0x050 ∨ 0x0A0 ≤ 0x04F) ∧ (0x0A0 < 0x050 ∨ 0x0A0 ≤ 0x0A0) := by
  decide

theorem witness_LoadWritesTheImage :
    Memory.wf (start .legacy).mem ∧ (List.replicate 3585 (0 : Byte)).length > 3584 ∧
    (List.replicate 3584 (0 : Byte)).length ≤ 3584 ∧ 3583 < (List.replicate 3584 (0 : Byte)).length := by
  refine ⟨⟨List.Pairwise.nil, by simp [start, State.reset]⟩, ?_, ?_, ?_⟩ <;> rw [List.length_replicate] <;> decide

theorem witness_KeyWriteReplacesTheLatch :
    15 < 16 := by
  decide

theorem witness_EveryStepKeepsTheInvariant :
    (start .legacy).Inv ∧ (∃ t, step (start .legacy) = .next t) ∧ halted.Inv ∧
    { start .legacy with mem := [(0x200, 1), (0xFFF, 2)] : State }.Inv := by
  refine ⟨⟨⟨List.Pairwise.nil, by simp [start, State.reset]⟩, fun _ _ => rfl, by decide⟩, ⟨_, rfl⟩,
    ⟨⟨List.Pairwise.nil, by simp [halted, start, State.reset]⟩, fun _ _ => rfl, by decide⟩,
    ⟨by decide, fun a ha => ?_, by decide⟩⟩
  simp only [Memory.read]
  rw [if_neg (by omega), if_neg (by omega)]

/-- Each part is changed by an instruction that the statement names for it. -/
theorem witness_InstructionsWriteOnlyTheirParts :
    check (exec (.ldImm 0xE 7) (start .legacy)) (fun t => t.getV 0xE != 0) = true ∧
    check (exec (.addReg 1 2) (setVs (start .legacy) [(1, 0xFF), (2, 1)])) (fun t => t.getV 0xF == 1) = true ∧
    check (exec (.loadRegs 1) { start .legacy with I := 0x50 }) (fun t => t.getV 0 != 0 && t.getV 1 != 0) = true ∧
    check (exec (.ldVxK 3) (start .legacy)) (fun t => t.engine == .waitingForKey) = true ∧
    check (exec .ret (start .legacy)) (fun t => t.engine == .halted && t.err != none) = true ∧
    check (exec (.storeRegs 1) (start .legacy)) (fun t => t.engine == .halted && t.err != none) = true ∧
    check (exec (.drw 1 2 5) { start .legacy with I := 0x50 }) (fun t => Display.pixel t.disp 0 0) = true ∧
    check (exec (.ldI 0xFFF) (start .legacy)) (fun t => t.I != 0) = true ∧
    check (exec (.storeRegs 0xF) { start .legacy with I := 0xFF0, V := Vector.replicate 16 7 })
      (fun t => t.I == 0x1000 && Memory.read t.mem 0xFFF == 7) = true ∧
    check (exec (.call 0x300) (start .legacy)) (fun t => t.sp == 1 && t.stackAt 0 == 0x202) = true ∧
    check (exec (.ldDtVx 3) (setVs (start .legacy) [(3, 5)])) (fun t => t.dt != 0) = true ∧
    check (exec (.ldStVx 3) (setVs (start .legacy) [(3, 5)])) (fun t => t.st != 0) = true ∧
    check (exec (.ldVxK 3) (start .legacy)) (fun t => t.waitReg != 0) = true ∧
    check (exec (.rnd 3 0) (start .legacy)) (fun t => t.draws != 0) = true := by
  decide +kernel

theorem witness_OnlyEventsChangeTheConfiguration :
    check (step { start .legacy with inputs := [.construct .chip48 7 1] })
      (fun t => t.mode == .chip48 && t.cpt == 7 && t.last == 1) = true ∧
    check (step { start .legacy with inputs := [.keyWrite 0x8000] }) (fun t => t.keys == 0x8000) = true ∧
    check (step { start .legacy with inputs := [.tickIfDue 1] }) (fun t => t.last == 1) = true := by
  decide +kernel

theorem witness_FlagHasNoOtherWriters :
    check (exec (.addReg 1 2) (setVs (start .legacy) [(1, 0xFF), (2, 1)])) (fun t => t.getV 0xF != 0) = true ∧
    check (exec (.ldImm 0xF 1) (start .legacy)) (fun t => t.getV 0xF != 0) = true := by
  decide

theorem witness_ModeAffectsExactlyFourInstructions :
    usesMode .cls = false ∧ ∃ t, exec .cls (start .legacy) = .next t :=
  ⟨rfl, _, rfl⟩

theorem witness_LatchIsReadOnlyByKeyTestsAndPoll :
    (readsKeys (.ldVxK 3) = false ∧ ∃ t, exec (.ldVxK 3) (waiting 0x8000) = .next t) ∧
    ((putWord (start .legacy) 0xF30A).engine ≠ .waitingForKey ∧
      (∀ w, (putWord (start .legacy) 0xF30A).fetch = .ok w → readsKeys (decodeWord w) = false) ∧
      ∃ t, stepEvent (putWord (start .legacy) 0xF30A) = .next t) := by
  refine ⟨⟨rfl, _, rfl⟩, by decide, fun w hw => ?_, ?_⟩
  · have e : w = 0xF30A := by cases hw; rfl
    subst e; decide
  · obtain ⟨t, h, _⟩ := check_next (r := stepEvent (putWord (start .legacy) 0xF30A)) (p := fun _ => true) (by decide)
    exact ⟨t, h⟩

theorem witness_StepReportFields :
    paused.engine = .paused ∧ halted.engine = .halted ∧ (start .legacy).engine = .running ∧ ((waiting 0).engine = .waitingForKey ∧ (waiting 0).keys = 0) ∧
    ((waiting 0x8000).engine = .waitingForKey ∧ (waiting 0x8000).keys ≠ 0) ∧
    check (stepEvent (putWord (start .legacy) 0x00EE)) (fun t => t.engine == .halted) = true ∧
    check (stepEvent (putWord (start .legacy) 0xF30A)) (fun t => t.engine == .waitingForKey) = true ∧
    check (stepEvent (putWord (start .legacy) 0xF315)) (fun t => t.engine == .running) = true := by
  decide

theorem witness_StepReportFields_fetch :
    (putWord (start .legacy) 0x00EE).fetch = .ok 0x00EE ∧ (putWord (start .legacy) 0xF30A).fetch = .ok 0xF30A ∧
    (putWord (start .legacy) 0xF315).fetch = .ok 0xF315 ∧
    ({ start .legacy with pc := 0xFFF } : State).fetch = .error (.memoryFault .fetch 0xFFF) :=
  ⟨rfl, rfl, rfl, rfl⟩

theorem witness_DecodeOfEncodeIsTheInstruction :
    WellFormed (.drw 0xF 0xF 0xF) ∧ WellFormed (.jp 0xFFF) ∧ WellFormed (.unknown 0xFFFF) := by
  decide

theorem witness_RowsOverlapOnlyInSys :
    ∃ r q, opcodeRows[0]? = some r ∧ opcodeRows[2]? = some q ∧ 0 < 2 ∧ r.selects 0x00E0 = true ∧ q.selects 0x00E0 = true :=
  ⟨_, _, rfl, rfl, by decide, rfl, rfl⟩


end Sys2Proof.Tests
end

section
/-! PROOFS of the family 20_memory.md: what a fetch, a byte read and a byte store answer in each of their ranges
(spec/20_memory.md R60, R62, R63). -/

namespace Sys2Proof.Machine

/-- The first byte is the high half of the word (20_memory.md R60). -/
theorem toNat_wordOfBytes (hi lo : Byte) : (wordOfBytes hi lo).toNat = hi.toNat * 256 + lo.toNat := by
  rw [wordOfBytes, BitVec.toNat_append, ← Nat.shiftLeft_add_eq_or_of_lt lo.isLt, Nat.shiftLeft_eq]

section
variable {s : State} {addr : Nat}

theorem State.fetch_of_le (h : s.pc.toNat ≤ 0xFFE) :
    s.fetch = .ok (wordOfBytes (Memory.read s.mem s.pc.toNat) (Memory.read s.mem (s.pc.toNat + 1))) :=
  if_neg (Nat.not_lt.mpr h)

theorem State.fetch_of_gt (h : s.pc.toNat > 0xFFE) : s.fetch = .error (.memoryFault .fetch s.pc.toNat) := if_pos h

theorem State.memRead_of_le (h : addr ≤ 0xFFF) : s.memRead addr = .ok (Memory.read s.mem addr) :=
  if_neg (Nat.not_lt.mpr h)

theorem State.memRead_of_gt (h : addr > 0xFFF) : s.memRead addr = .error (.memoryFault .read addr) := if_pos h

theorem State.memWrite_of_gt (v : Byte) (h : addr > 0xFFF) : s.memWrite addr v = .error (.memoryFault .write addr) :=
  if_pos h

/-- Memory below the program area is not stored to (20_memory.md R63). -/
theorem State.memWrite_of_lt (v : Byte) (h : addr < 0x200) :
    s.memWrite addr v = .error (.memoryFault .writeProtected addr) := by
  rw [State.memWrite, if_neg (by omega), if_pos h]

theorem State.memWrite_of_range (v : Byte) (hl : 0x200 ≤ addr) (hu : addr ≤ 0xFFF) :
    s.memWrite addr v = .ok (s.setMem (Memory.write s.mem addr v)) := by
  rw [State.memWrite, if_neg (Nat.not_lt.mpr hu), if_neg (Nat.not_lt.mpr hl)]

end

/-- Replacing memory changes no other part of the state. -/
theorem unchanged_setMem (s : State) (m : Memory) : Unchanged s (s.setMem m) [.memory] := by
  apply Unchanged.intro <;> simp [SameOutside]

/-- The write of one byte leaves every other address as it was. -/
theorem sameMemoryOutside_write (s : State) (addr : Nat) (v : Byte) :
    SameMemoryOutside s (s.setMem (Memory.write s.mem addr v)) addr 1 :=
  fun _ hb => Memory.read_write_ne s.mem v (by omega)

/-- Settles O24: the two ranges of the program counter, and the word of two bytes as a number. -/
theorem fetchIsBigEndian : Obligations.FetchIsBigEndian := fun _ =>
  ⟨fun h => ⟨_, State.fetch_of_le h, toNat_wordOfBytes _ _⟩, State.fetch_of_gt⟩

/-- Settles O25: the ranges of the address, and in the last one the laws of the write of one byte. -/
theorem byteAccessesAreChecked : Obligations.ByteAccessesAreChecked := by
  intro s addr v
  refine ⟨fun h => ⟨State.memRead_of_gt h, State.memWrite_of_gt v h⟩, State.memRead_of_le, State.memWrite_of_lt v,
    fun hl hu hm => ⟨s.setMem (Memory.write s.mem addr v), State.memWrite_of_range v hl hu, ?_⟩⟩
  have inside : addr < Config.memSize := Nat.lt_succ_of_le hu
  exact ⟨Memory.read_write_same hm addr v, sameMemoryOutside_write s addr v, unchanged_setMem s _, rfl,
    Memory.wf_write v hm inside⟩

end Sys2Proof.Machine
end

section
/-! PROOFS of the family 30_encoding.md: the two-level switch (spec/30_encoding.md R96) is the table of masks (R95)
with its rows sorted by primary nibble. -/

namespace Sys2Proof

/-! ### Words and their fields (30_encoding.md R92) -/

theorem op_append_x_append_nn (w : Word) : (fieldOp w ++ (fieldX w ++ fieldNN w) : Word) = w := by
  have nnn : fieldX w ++ fieldNN w = fieldNNN w := BitVec.extractLsb'_append_extractLsb'_eq_extractLsb' rfl
  have word : fieldOp w ++ fieldNNN w = w.extractLsb' 0 16 := BitVec.extractLsb'_append_extractLsb'_eq_extractLsb' rfl
  exact (congrArg (fieldOp w ++ ·) nnn).trans (word.trans BitVec.extractLsb'_eq_self)

theorem y_append_n (w : Word) : fieldY w ++ fieldN w = fieldNN w :=
  BitVec.extractLsb'_append_extractLsb'_eq_extractLsb' rfl

/-- A word is its primary nibble, its X and its low byte. -/
theorem word_eq_iff {v w : Word} : v = w ↔ fieldOp v = fieldOp w ∧ fieldX v = fieldX w ∧ fieldNN v = fieldNN w := by
  constructor
  · rintro rfl
    exact ⟨rfl, rfl, rfl⟩
  · rintro ⟨hop, hx, hnn⟩
    rw [← op_append_x_append_nn v, ← op_append_x_append_nn w, hop, hx, hnn]

/-- Under the mask 0F a low byte is its N alone, so it agrees with a byte whose Y is 0 when the N agree. -/
theorem fieldNN_and_low_eq_iff {v w : Word} (hy : fieldY v = 0#4) :
    fieldNN w &&& 0x0F = fieldNN v ↔ fieldN w = fieldN v := by
  have low : (fieldY w ++ fieldN w) &&& (0x0#4 ++ 0xF#4) = 0#4 ++ fieldN w := by
    rw [append_and, BitVec.and_zero, nibble_and_ones]
  rw [← y_append_n v, ← y_append_n w, hy]
  exact (iff_of_eq (congrArg (· = _) low)).trans (BitVec.append_right_inj _)

/-! ### When a row of the opcode map is selected (30_encoding.md R95) -/

section
variable {r : OpcodeRow} {w : Word}

/-- A row is selected when each field of the word, under that field of the mask, is that field of the match. -/
theorem OpcodeRow.selects_iff : r.selects w = true ↔
    fieldOp w &&& fieldOp r.mask = fieldOp r.pattern ∧ fieldX w &&& fieldX r.mask = fieldX r.pattern ∧
    fieldNN w &&& fieldNN r.mask = fieldNN r.pattern := by
  rw [selects, beq_iff_eq, word_eq_iff]
  simp only [fieldOp, fieldX, fieldNN, BitVec.extractLsb'_and]

/-- A selected row whose mask covers the primary nibble has the primary nibble of the word. -/
theorem OpcodeRow.fieldOp_of_selects (hm : fieldOp r.mask = 0xF#4) (h : r.selects w = true) :
    fieldOp r.pattern = fieldOp w := by
  obtain ⟨hop, -, -⟩ := selects_iff.mp h
  rw [← hop, hm, nibble_and_ones]

theorem OpcodeRow.selects_iff_eq (hm : r.mask = 0xFFFF) : r.selects w = true ↔ w = r.pattern := by
  have all : w &&& 0xFFFF = w := BitVec.and_allOnes
  rw [selects, beq_iff_eq, hm, all]

variable {p : Nibble} (hop : fieldOp w = p)
include hop

/-- The mask of the formats NNN, XNN and DXYN looks at the primary nibble only. -/
theorem OpcodeRow.selects_of_op (hm : r.mask = 0xF000) (hp : r.pattern = p ++ 0#12) : r.selects w = true := by
  have word : w &&& 0xF000 = p ++ 0#12 := by
    conv_lhs => rw [← op_append_x_append_nn w, hop]
    exact format_nnn p (fieldX w ++ fieldNN w)
  rw [selects, beq_iff_eq, hm, hp, word]

/-- The mask of the format XY0 looks at the primary nibble and N. -/
theorem OpcodeRow.selects_iff_n (hm : r.mask = 0xF00F)
    (hp : fieldOp r.pattern = p ∧ fieldX r.pattern = 0#4 ∧ fieldY r.pattern = 0#4) :
    r.selects w = true ↔ fieldN w = fieldN r.pattern := by
  obtain ⟨hpop, hpx, hpy⟩ := hp
  rw [selects_iff, hm, hpop, hpx, ← fieldNN_and_low_eq_iff hpy, hop]
  exact ⟨fun ⟨_, _, h⟩ => h, fun h => ⟨nibble_and_ones p, BitVec.and_zero, h⟩⟩

/-- The mask of the format XKK looks at the primary nibble and NN. -/
theorem OpcodeRow.selects_iff_nn (hm : r.mask = 0xF0FF) (hp : fieldOp r.pattern = p ∧ fieldX r.pattern = 0#4) :
    r.selects w = true ↔ fieldNN w = fieldNN r.pattern := by
  obtain ⟨hpop, hpx⟩ := hp
  have all : fieldNN w &&& fieldNN 0xF0FF = fieldNN w := BitVec.and_allOnes
  rw [selects_iff, hm, hpop, hpx, hop, all]
  exact ⟨fun ⟨_, _, h⟩ => h, fun h => ⟨nibble_and_ones p, BitVec.and_zero, h⟩⟩

end

/-! ### The rows of one primary nibble -/

/-- The instruction of the first of some rows that a word selects; `decodeWord` with its rows as an argument. -/
def decodeIn (rows : List OpcodeRow) (w : Word) : Instr :=
  (rows.find? (·.selects w)).elim (.unknown w) (·.build w)

theorem decodeWord_eq_decodeIn (w : Word) : decodeWord w = decodeIn opcodeRows w := by
  rw [decodeWord, decodeIn]
  cases opcodeRows.find? (·.selects w) <;> rfl

theorem decodeIn_nil (w : Word) : decodeIn [] w = .unknown w := rfl

theorem decodeIn_cons (r : OpcodeRow) (rs : List OpcodeRow) (w : Word) :
    decodeIn (r :: rs) w = if r.selects w = true then r.build w else decodeIn rs w := by
  rw [decodeIn, List.find?_cons]
  cases r.selects w <;> rfl

/-- The rows of the opcode map with a given primary nibble, in the table's order. -/
def rowsOf (p : Nibble) : List OpcodeRow := opcodeRows.filter fun r => fieldOp r.pattern == p

/-- Every mask of the opcode map covers the primary nibble. -/
theorem opcodeRows_mask : ∀ r ∈ opcodeRows, fieldOp r.mask = 0xF#4 := by decide

/-- A word is decoded by the rows of its primary nibble alone: the first level of the switch. -/
theorem decodeWord_eq_decodeIn_rowsOf {w : Word} {p : Nibble} (hop : fieldOp w = p) :
    decodeWord w = decodeIn (rowsOf p) w := by
  rw [decodeWord_eq_decodeIn, decodeIn, decodeIn, rowsOf, List.find?_filter]
  congr 1
  refine List.find?_congr fun r hr => ?_
  have covered := OpcodeRow.fieldOp_of_selects (w := w) (opcodeRows_mask r hr)
  rw [Bool.eq_iff_iff, decide_eq_true_iff, beq_iff_eq, ← hop]
  exact ⟨fun h => ⟨covered h, h⟩, fun ⟨_, h⟩ => h⟩

section
variable {r : OpcodeRow} {w : Word} {p : Nibble} (hop : fieldOp w = p)
include hop

/-- A primary nibble with one row, of the format NNN, XNN or DXYN. -/
theorem decodeWord_of_op (rows : rowsOf p = [r]) (hm : r.mask = 0xF000) (hp : r.pattern = p ++ 0#12) :
    r.build w = decodeWord w := by
  rw [decodeWord_eq_decodeIn_rowsOf hop, rows, decodeIn_cons, if_pos (OpcodeRow.selects_of_op hop hm hp)]

/-- A primary nibble with one row, of the format XY0. -/
theorem decodeWord_of_op_n (rows : rowsOf p = [r]) (hm : r.mask = 0xF00F)
    (hp : fieldOp r.pattern = p ∧ fieldX r.pattern = 0#4 ∧ fieldY r.pattern = 0#4) (hn : fieldN r.pattern = 0) :
    (if fieldN w = 0 then r.build w else .unknown w) = decodeWord w := by
  simp only [decodeWord_eq_decodeIn_rowsOf hop, rows, decodeIn_cons, decodeIn_nil, OpcodeRow.selects_iff_n hop hm hp, hn]

end

section
variable {w : Word}

/-- Primary nibble 0: the two fixed words stand before `SYS`. -/
theorem decodeWord_of_op_0 (hop : fieldOp w = 0x0) :
    (if w = 0x00E0 then .cls else if w = 0x00EE then .ret else .unknown w) = decodeWord w := by
  have rows : rowsOf 0x0 = opcodeRowsLow.take 3 := rfl
  rw [decodeWord_eq_decodeIn_rowsOf hop, rows]
  simp (disch := decide) only [opcodeRowsLow, List.take, decodeIn_cons, OpcodeRow.selects_iff_eq,
    OpcodeRow.selects_of_op hop, if_true]

/-- Primary nibble 8: nine rows of the format XY0, told apart by N. -/
theorem decodeWord_of_op_8 (hop : fieldOp w = 0x8) : decodeSwitch8 w = decodeWord w := by
  have rows : rowsOf 0x8 = opcodeRowsMid.take 9 := rfl
  rw [decodeWord_eq_decodeIn_rowsOf hop, rows]
  simp (disch := decide) only [opcodeRowsMid, List.take, decodeIn_cons, decodeIn_nil, OpcodeRow.selects_iff_n hop]
  rfl

/-- Primary nibble E: the two key tests, told apart by NN. -/
theorem decodeWord_of_op_E (hop : fieldOp w = 0xE) :
    (if fieldNN w = 0x9E then .skp (fieldX w) else if fieldNN w = 0xA1 then .sknp (fieldX w) else .unknown w) =
      decodeWord w := by
  have rows : rowsOf 0xE = opcodeRowsHigh.take 2 := rfl
  rw [decodeWord_eq_decodeIn_rowsOf hop, rows]
  simp (disch := decide) only [opcodeRowsHigh, List.take, decodeIn_cons, decodeIn_nil, OpcodeRow.selects_iff_nn hop]
  rfl

/-- Primary nibble F: nine rows of the format XKK, told apart by NN. -/
theorem decodeWord_of_op_F (hop : fieldOp w = 0xF) : decodeSwitchF w = decodeWord w := by
  have rows : rowsOf 0xF = opcodeRowsHigh.drop 2 := rfl
  rw [decodeWord_eq_decodeIn_rowsOf hop, rows]
  simp (disch := decide) only [opcodeRowsHigh, List.drop, decodeIn_cons, decodeIn_nil, OpcodeRow.selects_iff_nn hop]
  rfl

end

/-! ### The two readings of the opcode map agree -/

/-- Settles O57: along the branches of the switch, each primary nibble's branch is what the rows of that nibble give. -/
theorem switchAgreesWithTable : Obligations.SwitchAgreesWithTable := by
  intro w
  refine ite_eq_iff'.mpr ⟨fun h => decodeWord_of_op_0 h, fun _ => ?_⟩
  refine ite_eq_iff'.mpr ⟨fun h => decodeWord_of_op h rfl rfl rfl, fun _ => ?_⟩
  refine ite_eq_iff'.mpr ⟨fun h => decodeWord_of_op h rfl rfl rfl, fun _ => ?_⟩
  refine ite_eq_iff'.mpr ⟨fun h => decodeWord_of_op h rfl rfl rfl, fun _ => ?_⟩
  refine ite_eq_iff'.mpr ⟨fun h => decodeWord_of_op h rfl rfl rfl, fun _ => ?_⟩
  refine ite_eq_iff'.mpr ⟨fun h => decodeWord_of_op_n h rfl rfl ⟨rfl, rfl, rfl⟩ rfl, fun _ => ?_⟩
  refine ite_eq_iff'.mpr ⟨fun h => decodeWord_of_op h rfl rfl rfl, fun _ => ?_⟩
  refine ite_eq_iff'.mpr ⟨fun h => decodeWord_of_op h rfl rfl rfl, fun _ => ?_⟩
  refine ite_eq_iff'.mpr ⟨fun h => decodeWord_of_op_8 h, fun _ => ?_⟩
  refine ite_eq_iff'.mpr ⟨fun h => decodeWord_of_op_n h rfl rfl ⟨rfl, rfl, rfl⟩ rfl, fun _ => ?_⟩
  refine ite_eq_iff'.mpr ⟨fun h => decodeWord_of_op h rfl rfl rfl, fun _ => ?_⟩
  refine ite_eq_iff'.mpr ⟨fun h => decodeWord_of_op h rfl rfl rfl, fun _ => ?_⟩
  refine ite_eq_iff'.mpr ⟨fun h => decodeWord_of_op h rfl rfl rfl, fun _ => ?_⟩
  refine ite_eq_iff'.mpr ⟨fun h => decodeWord_of_op h rfl rfl rfl, fun _ => ?_⟩
  refine ite_eq_iff'.mpr ⟨fun h => decodeWord_of_op_E h, fun _ => ?_⟩
  -- the nibbles 0 to E are excluded by the branches before
  have last : fieldOp w = 0xF := by bv_omega
  exact decodeWord_of_op_F last

end Sys2Proof
end

section
/-! PROOFS of the family 40_execution_cycle.md: what a `Step` and its report are in each state of the engine, the entry
to the key wait and its end, the default advance, and `Pause` and `Resume` (spec/40_execution_cycle.md R121 to R131). -/

namespace Sys2Proof.Machine

/-! ### Frames of the updates that this family makes -/

/-- The spec's `state` is part of the engine alone. -/
theorem unchanged_setEngine (s : State) (e : EngineState) : Unchanged s (s.setEngine e) [.engine] := by
  apply Unchanged.intro <;> simp [SameOutside]

/-- The entry to the key wait is a change of the engine alone. -/
theorem unchanged_enterWait (s : State) (x : Nibble) : Unchanged s (s.enterWait x) [.engine] := by
  apply Unchanged.intro <;> simp [SameOutside]

/-- The end of the key wait changes one register and the engine, and advances. -/
theorem unchanged_setV_advance_setEngine (s : State) (x : Nibble) (v : Byte) (e : EngineState) :
    Unchanged s (((s.setV x v).advance).setEngine e) [.registers, .engine] := by
  apply Unchanged.intro <;> simp [SameOutside]

/-- A register write changes that register only. -/
theorem sameVBut_setV (s : State) (x : Nibble) (v : Byte) : SameVBut s (s.setV x v) [x] :=
  fun _ hy => State.getV_setV_ne s v (by simpa using hy)

/-! ### A `Step` and its report in each state of the engine (R120, R127 to R129) -/

section
variable {s t : State} {w : Word} {k : Nibble}

theorem stepEvent_of_waiting (h : s.engine = .waitingForKey) : stepEvent s = .next (pollKey s) := by
  simp only [stepEvent, h]

theorem stepEvent_of_paused (h : s.engine = .paused) : stepEvent s = .next s := by
  simp only [stepEvent, h]

theorem stepEvent_of_halted (h : s.engine = .halted) : stepEvent s = .next s := by
  simp only [stepEvent, h]

theorem pollKey_of_none (h : leastKey s.keys = none) : pollKey s = s := by
  simp only [pollKey, h]

theorem pollKey_of_some (h : leastKey s.keys = some k) :
    pollKey s = ((s.setV s.waitReg (k.setWidth 8)).advance).setEngine .running := by
  simp only [pollKey, h]

/-- The report of a `Step` that fetches a word and executes it (R121). -/
theorem stepReport_of_exec (h : s.engine = .running) (hw : s.fetch = .ok w) (ht : exec (decodeWord w) s = .next t) :
    stepReport s = executionReport w (decodeWord w) t := by
  simp only [stepReport, h, runningReport, hw, ht]

theorem stepReport_of_waiting_none (h : s.engine = .waitingForKey) (hk : leastKey s.keys = none) :
    stepReport s = ⟨.waiting, none, none, none, none⟩ := by
  simp only [stepReport, h, hk]

theorem stepReport_of_waiting_some (h : s.engine = .waitingForKey) (hk : leastKey s.keys = some k) :
    stepReport s = ⟨.executed, none, some (.ldVxK s.waitReg), none, none⟩ := by
  simp only [stepReport, h, hk]

theorem stepReport_of_paused (h : s.engine = .paused) : stepReport s = ⟨.rejected, none, none, none, none⟩ := by
  simp only [stepReport, h]

theorem stepReport_of_halted (h : s.engine = .halted) :
    stepReport s = ⟨.faulted, none, none, none, s.err.map .fatal⟩ := by
  simp only [stepReport, h]

/-! ### The debug controls and the timers (R130, R131) -/

theorem pauseEvent_of_running (h : s.engine = .running) : pauseEvent s = s.setEngine .paused := by
  simp only [pauseEvent, h]

theorem pauseEvent_of_ne (h : s.engine ≠ .running) : pauseEvent s = s := by
  cases he : s.engine with
  | running => exact absurd he h
  | paused | waitingForKey | halted => simp only [pauseEvent, he]

theorem resumeEvent_of_paused (h : s.engine = .paused) : resumeEvent s = s.setEngine .running := by
  simp only [resumeEvent, h]

theorem resumeEvent_of_ne (h : s.engine ≠ .paused) : resumeEvent s = s := by
  cases he : s.engine with
  | paused => exact absurd he h
  | running | waitingForKey | halted => simp only [resumeEvent, he]

theorem singleStepEvent_of_ne (h : s.engine ≠ .paused) : singleStepEvent s = .next s := by
  cases he : s.engine with
  | paused => exact absurd he h
  | running | waitingForKey | halted => simp only [singleStepEvent, he]

end

/-- A timer counts down to 0 and stays there (60_exceptions.md R265). -/
theorem toNat_countDown (t : Byte) : (countDown t).toNat = t.toNat - 1 := by
  rw [countDown]
  split
  · next h => rw [h]; rfl
  · next h => bv_omega

/-! ### The default advance (R124) -/

/-- A checked instruction halts, or ends with the program counter of its effect. -/
theorem guarded_halted_or_pc {c : Option FatalError} {s u t : State} (h : guarded c s u = .next t) :
    t.engine = .halted ∨ t.pc = u.pc := by
  rcases guarded_cases c s u with ⟨e, -, g⟩ | ⟨-, g⟩ <;> cases g.symm.trans h
  · exact .inl rfl
  · exact .inr rfl

/-- An instruction outside the list of R125 halts or ends with the default advance. -/
theorem exec_halted_or_advances {i : Instr} {s t : State} (hi : setsPc i = false) (h : exec i s = .next t) :
    t.engine = .halted ∨ t.pc = s.pc + 2 := by
  cases i with
  | drw | ldBVx | storeRegs | loadRegs => exact guarded_halted_or_pc h
  | jp | call | ret | jpV0 | seImm | sneImm | seReg | sneReg | skp | sknp | ldVxK => cases hi
  | _ => cases h; exact .inr rfl

/-- The program counter's addition is modulo 65536 (R124). -/
theorem toNat_add_two (pc : Word) : (pc + 2).toNat = (pc.toNat + 2) % 65536 := BitVec.toNat_add pc 2

/-- Settles O33: what does not halt has advanced. -/
theorem defaultAdvanceIsTwo : Obligations.DefaultAdvanceIsTwo := by
  intro i s t hi h hrun
  have advanced : t.pc = s.pc + 2 := (exec_halted_or_advances hi h).resolve_left hrun
  rw [advanced, toNat_add_two]

/-! ### The key wait (R126, R127) -/

theorem decodeWord_wordX_ldVxK (x : Nibble) : decodeWord (wordX 0xF00A x) = .ldVxK x := by
  revert x; decide

theorem exec_ldVxK (x : Nibble) (s : State) : exec (.ldVxK x) s = .next (s.enterWait x) := rfl

/-- Settles O21: the entry to the wait, and the report of the state it leaves. -/
theorem keyWaitEnters : Obligations.KeyWaitEnters := by
  intro x
  have hd := decodeWord_wordX_ldVxK x
  refine ⟨hd, fun s => ⟨s.enterWait x, exec_ldVxK x s, rfl, rfl, rfl, rfl, unchanged_enterWait s x⟩,
    fun s hr hw => ?_⟩
  have executes : exec (decodeWord (wordX 0xF00A x)) s = .next (s.enterWait x) := by rw [hd, exec_ldVxK]
  rw [stepReport_of_exec hr hw executes]
  rfl

/-- Settles O22: by whether the poll finds a key, and what the state it leaves then holds. -/
theorem pollTakesTheLeastKey : Obligations.PollTakesTheLeastKey := by
  intro s hwait
  rw [stepEvent_of_waiting hwait]
  refine ⟨fun h0 => ?_, fun k hk hleast => ?_⟩
  · have unpressed : leastKey s.keys = none := (leastKey_eq_none s.keys).mpr h0
    rw [pollKey_of_none unpressed, stepReport_of_waiting_none hwait unpressed]
    exact ⟨rfl, rfl⟩
  · have found : leastKey s.keys = some k := leastKey_eq_some hk hleast
    rw [pollKey_of_some found, stepReport_of_waiting_some hwait found]
    refine ⟨_, rfl, ?_, sameVBut_setV s s.waitReg _, toNat_add_two s.pc, rfl, rfl, rfl,
      unchanged_setV_advance_setEngine s _ _ _, rfl, rfl⟩
    have written : (((s.setV s.waitReg (k.setWidth 8)).advance).setEngine .running).getV s.waitReg = k.setWidth 8 :=
      State.getV_setV_same s _ _
    rw [written, BitVec.toNat_setWidth_of_le (by decide)]

/-! ### The states and events that change nothing (R128 to R131) -/

/-- Settles O34: each event by its equation in `Paused` or `Halted`. -/
theorem pausedAndHaltedIgnoreStep : Obligations.PausedAndHaltedIgnoreStep := by
  refine fun s => ⟨fun hp => ?_, fun hh => ?_⟩
  · rw [stepReport_of_paused hp]
    exact ⟨stepEvent_of_paused hp, rfl⟩
  · have notRunning : s.engine ≠ .running := by simp [hh]
    have notPaused : s.engine ≠ .paused := by simp [hh]
    rw [stepReport_of_halted hh]
    exact ⟨stepEvent_of_halted hh, singleStepEvent_of_ne notPaused, congrArg _ (pauseEvent_of_ne notRunning),
      congrArg _ (resumeEvent_of_ne notPaused), rfl, rfl⟩

/-- Settles O35: each control by its equation, and the timer clock by the countdown. -/
theorem pauseAndResume : Obligations.PauseAndResume := by
  refine fun s => ⟨fun hr => ?_, fun hr => congrArg _ (pauseEvent_of_ne hr), fun hp => ?_,
    fun hp => congrArg _ (resumeEvent_of_ne hp), fun _ => ?_⟩
  · exact ⟨s.setEngine .paused, congrArg _ (pauseEvent_of_running hr), rfl, rfl, rfl, rfl, unchanged_setEngine s _⟩
  · exact ⟨s.setEngine .running, congrArg _ (resumeEvent_of_paused hp), rfl, rfl, rfl, rfl, unchanged_setEngine s _⟩
  · exact ⟨tickEvent s, rfl, toNat_countDown s.dt, toNat_countDown s.st⟩

end Sys2Proof.Machine
end

section
/-! PROOFS of the family 41_arithmetic_bitwise.md: the words of its instructions, and what each leaves in its
destination, in VF and in the rest of the state (spec/41_arithmetic_bitwise.md R151 to R162). -/

namespace Sys2Proof

/-! ### A word put together from its fields (30_encoding.md R91, R92) -/

section
variable (p x y n : Nibble) (nn : Byte)

@[simp] theorem fieldOp_xnn : fieldOp (p ++ x ++ nn) = p :=
  (BitVec.extractLsb'_append_eq_of_le (by decide)).trans BitVec.extractLsb'_append_eq_left

@[simp] theorem fieldX_xnn : fieldX (p ++ x ++ nn) = x :=
  (BitVec.extractLsb'_append_eq_of_le (by decide)).trans BitVec.extractLsb'_append_eq_right

@[simp] theorem fieldNN_xnn : fieldNN (p ++ x ++ nn) = nn := BitVec.extractLsb'_append_eq_right

/-- In the format XYN, Y and N are the byte NN of the format XNN. -/
theorem xyn_eq_xnn : p ++ x ++ y ++ n = p ++ x ++ (y ++ n) := BitVec.append_assoc

@[simp] theorem fieldOp_xyn : fieldOp (p ++ x ++ y ++ n) = p :=
  (congrArg fieldOp (xyn_eq_xnn p x y n)).trans (fieldOp_xnn p x (y ++ n))

@[simp] theorem fieldX_xyn : fieldX (p ++ x ++ y ++ n) = x :=
  (congrArg fieldX (xyn_eq_xnn p x y n)).trans (fieldX_xnn p x (y ++ n))

@[simp] theorem fieldY_xyn : fieldY (p ++ x ++ y ++ n) = y :=
  (BitVec.extractLsb'_append_eq_of_le (by decide)).trans BitVec.extractLsb'_append_eq_right

@[simp] theorem fieldN_xyn : fieldN (p ++ x ++ y ++ n) = n := BitVec.extractLsb'_append_eq_right

end

end Sys2Proof

namespace Sys2Proof.Machine

section
variable {base : Word} {x y : Nibble} {nn : Byte}

/-- `base | X << 8 | NN` is the format XNN with the primary nibble of the base. -/
theorem wordXNN_eq_append (p : Nibble) (h : base = p.setWidth 16 <<< 12) : wordXNN base x nn = p ++ x ++ nn := by
  rw [h, wordXNN, ← BitVec.setWidth_eq (p ++ x ++ nn), BitVec.setWidth_append_append_eq_shiftLeft_setWidth_or]

/-- `base | X << 8 | Y << 4` is the format XYN with the primary nibble and the N of the base. -/
theorem wordXY_eq_append (p n : Nibble) (h : base = p.setWidth 16 <<< 12 ||| n.setWidth 16) :
    wordXY base x y = p ++ x ++ y ++ n := by
  rw [h, wordXY, ← BitVec.setWidth_eq (p ++ x ++ y ++ n),
    BitVec.setWidth_append_append_append_eq_shiftLeft_setWidth_or]
  -- the two sides join the same four fields in different orders
  ac_rfl

/-- A word of the format XNN, by the switch of R96. -/
theorem decodeWord_wordXNN (p : Nibble) (h : base = p.setWidth 16 <<< 12) :
    decodeWord (wordXNN base x nn) = decodeSwitch (p ++ x ++ nn) := by
  rw [wordXNN_eq_append p h, switchAgreesWithTable]

/-- A word of primary nibble 8, by the second level of the switch of R96. -/
theorem decodeWord_wordXY_8 (n : Nibble) (h : base = (0x8#4).setWidth 16 <<< 12 ||| n.setWidth 16) :
    decodeWord (wordXY base x y) = decodeSwitch8 (0x8#4 ++ x ++ y ++ n) := by
  rw [wordXY_eq_append 0x8#4 n h, decodeWord_of_op_8 (fieldOp_xyn 0x8#4 x y n)]

end

/-! ### The two shapes of an instruction of this family: a result, or a result and a flag (R157) -/

section
variable (s : State) (x : Nibble) (v r g : Byte)

theorem unchanged_setV_advance : Unchanged s (s.setV x v).advance [.registers] := by
  apply Unchanged.intro <;> simp [SameOutside]

/-- A result alone: the other registers and parts keep their values, VF included unless it is the destination. -/
theorem frame_setV_advance : SameVBut s (s.setV x v).advance [x] ∧ Unchanged s (s.setV x v).advance [.registers] ∧
    (s.setV x v).advance.pc = s.pc + 2 :=
  ⟨sameVBut_setV s x v, unchanged_setV_advance s x v, rfl⟩

theorem sameVBut_setResultAndFlag : SameVBut s (s.setResultAndFlag x r g) [x, 0xF] := by
  intro y hy
  obtain ⟨hx, hf⟩ : y ≠ x ∧ y ≠ regF := by simpa [regF] using hy
  exact State.getV_setResultAndFlag_other s r g hx hf

theorem unchanged_setResultAndFlag_advance : Unchanged s (s.setResultAndFlag x r g).advance [.registers] := by
  apply Unchanged.intro <;> simp [SameOutside]

/-- A result and a flag: the registers but the destination and VF, and the other parts, keep their values. -/
theorem frame_setResultAndFlag_advance : SameVBut s (s.setResultAndFlag x r g).advance [x, 0xF] ∧
    Unchanged s (s.setResultAndFlag x r g).advance [.registers] ∧
    (s.setResultAndFlag x r g).advance.pc = s.pc + 2 :=
  ⟨sameVBut_setResultAndFlag s x r g, unchanged_setResultAndFlag_advance s x r g, rfl⟩

end

/-! ### The results and flags as numbers (R158 to R162) -/

section
variable (a b v : Byte)

theorem carryFlag_eq_ite : carryFlag a b = if a.toNat + b.toNat > 255 then 1 else 0 := by
  simp [carryFlag, flagByte]

theorem notBorrowFlag_eq_ite : notBorrowFlag a b = if a.toNat ≥ b.toNat then 1 else 0 := by
  simp [notBorrowFlag, flagByte]

theorem toNat_sub_eq_ite :
    (a - b).toNat = if a.toNat ≥ b.toNat then a.toNat - b.toNat else a.toNat + 256 - b.toNat := by
  split
  next h => exact BitVec.toNat_sub_of_le h
  next h =>
    rw [BitVec.toNat_sub_of_lt (Nat.lt_of_not_le h)]
    omega

theorem toNat_flagByte (c : Bool) : (flagByte c).toNat = c.toNat := by
  cases c <;> rfl

/-- Bit 0 is the remainder of the halving. -/
theorem toNat_shiftOutRight : (shiftOutRight v).toNat = v.toNat % 2 := by
  rw [shiftOutRight, toNat_flagByte, BitVec.getLsbD, Nat.toNat_testBit]
  omega

/-- Bit 7 is the carry out of the doubling. -/
theorem toNat_shiftOutLeft : (shiftOutLeft v).toNat = v.toNat / 128 := by
  rw [shiftOutLeft, toNat_flagByte, BitVec.getLsbD, Nat.toNat_testBit]
  omega

end

/-- The operand of a shift is the register that the mode selects (R160, R162). -/
theorem State.shiftOperand_eq_ite (s : State) (x y : Nibble) :
    s.shiftOperand x y = if s.mode = .legacy then s.getV y else s.getV x := by
  unfold State.shiftOperand
  cases s.mode <;> rfl

/-! ### What each instruction does -/

/-- Settles O1: a constant and a sum modulo 256, each written as a result alone. -/
theorem loadAndAddImmediate : Obligations.LoadAndAddImmediate := by
  refine fun x nn => ⟨⟨?_, fun s => ?_⟩, ⟨?_, fun s => ?_⟩⟩
  · exact (decodeWord_wordXNN 0x6 rfl).trans (by simp [decodeSwitch])
  · exact ⟨(s.setV x nn).advance, rfl, State.getV_setV_same s x nn, frame_setV_advance s x nn⟩
  · exact (decodeWord_wordXNN 0x7 rfl).trans (by simp [decodeSwitch])
  · refine ⟨(s.setV x (s.getV x + nn)).advance, rfl, ?_, frame_setV_advance s x _⟩
    rw [State.getV_advance, State.getV_setV_same, BitVec.toNat_add]

/-- Settles O2: a copy and three bitwise operations, each written as a result alone. -/
theorem copyAndBitwise : Obligations.CopyAndBitwise := by
  refine fun x y => ⟨(decodeWord_wordXY_8 0x0 rfl).trans (by simp [decodeSwitch8]),
    (decodeWord_wordXY_8 0x1 rfl).trans (by simp [decodeSwitch8]),
    (decodeWord_wordXY_8 0x2 rfl).trans (by simp [decodeSwitch8]),
    (decodeWord_wordXY_8 0x3 rfl).trans (by simp [decodeSwitch8]), fun s => ⟨?_, ?_, ?_, ?_⟩⟩
  · exact ⟨(s.setV x (s.getV y)).advance, rfl, State.getV_setV_same s x _, frame_setV_advance s x _⟩
  · refine ⟨(s.setV x (s.getV x ||| s.getV y)).advance, rfl, fun i => ?_, frame_setV_advance s x _⟩
    rw [State.getV_advance, State.getV_setV_same, BitVec.getLsbD_or]
  · refine ⟨(s.setV x (s.getV x &&& s.getV y)).advance, rfl, fun i => ?_, frame_setV_advance s x _⟩
    rw [State.getV_advance, State.getV_setV_same, BitVec.getLsbD_and]
  · refine ⟨(s.setV x (s.getV x ^^^ s.getV y)).advance, rfl, fun i => ?_, frame_setV_advance s x _⟩
    rw [State.getV_advance, State.getV_setV_same, BitVec.getLsbD_xor]

/-- Settles O3: the sum modulo 256 as the result and the carry as the flag. -/
theorem addSetsSumAndCarry : Obligations.AddSetsSumAndCarry := by
  refine fun x y => ⟨(decodeWord_wordXY_8 0x4 rfl).trans (by simp [decodeSwitch8]), fun s => ?_⟩
  refine ⟨_, rfl, fun hx => ?_, ?_, frame_setResultAndFlag_advance s x _ _⟩
  · rw [State.getV_advance, State.getV_setResultAndFlag_result s _ _ hx, BitVec.toNat_ofNat]
  · exact (State.getV_setResultAndFlag_flag s x _ _).trans (carryFlag_eq_ite _ _)

/-- Both subtractions, of which `a` is the minuend and `b` the subtrahend (R159, R161). -/
theorem difference_and_notBorrow (s : State) (x : Nibble) (a b : Byte) {o : Result}
    (h : o = .next (s.setResultAndFlag x (a - b) (notBorrowFlag a b)).advance) : ∃ t, o = .next t ∧
      (x ≠ 0xF → (t.getV x).toNat = if a.toNat ≥ b.toNat then a.toNat - b.toNat else a.toNat + 256 - b.toNat) ∧
      t.getV 0xF = (if a.toNat ≥ b.toNat then 1 else 0) ∧
      SameVBut s t [x, 0xF] ∧ Unchanged s t [.registers] ∧ t.pc = s.pc + 2 := by
  refine ⟨_, h, fun hx => ?_, ?_, frame_setResultAndFlag_advance s x _ _⟩
  · rw [State.getV_advance, State.getV_setResultAndFlag_result s _ _ hx, toNat_sub_eq_ite]
  · exact (State.getV_setResultAndFlag_flag s x _ _).trans (notBorrowFlag_eq_ite a b)

/-- Settles O4: the one lemma of a subtraction, with the operands in each order. -/
theorem subtractSetsDifferenceAndNoBorrow : Obligations.SubtractSetsDifferenceAndNoBorrow :=
  fun x y => ⟨(decodeWord_wordXY_8 0x5 rfl).trans (by simp [decodeSwitch8]),
    (decodeWord_wordXY_8 0x7 rfl).trans (by simp [decodeSwitch8]), fun s =>
    ⟨difference_and_notBorrow s x (s.getV x) (s.getV y) rfl,
      difference_and_notBorrow s x (s.getV y) (s.getV x) rfl⟩⟩

/-- Settles O5: halving with its remainder and doubling with its carry, of the operand that the mode selects. -/
theorem shiftsFollowMode : Obligations.ShiftsFollowMode := by
  refine fun x y => ⟨(decodeWord_wordXY_8 0x6 rfl).trans (by simp [decodeSwitch8]),
    (decodeWord_wordXY_8 0xE rfl).trans (by simp [decodeSwitch8]), fun s v hv => ?_⟩
  obtain rfl : v = s.shiftOperand x y := hv.trans (s.shiftOperand_eq_ite x y).symm
  refine ⟨⟨_, rfl, fun hx => ?_, ?_, frame_setResultAndFlag_advance s x _ _⟩,
    ⟨_, rfl, fun hx => ?_, ?_, frame_setResultAndFlag_advance s x _ _⟩⟩
  · rw [State.getV_advance, State.getV_setResultAndFlag_result s _ _ hx, BitVec.toNat_ushiftRight,
      Nat.shiftRight_eq_div_pow]
  · exact (congrArg _ (State.getV_setResultAndFlag_flag s x _ _)).trans (toNat_shiftOutRight _)
  · rw [State.getV_advance, State.getV_setResultAndFlag_result s _ _ hx, BitVec.toNat_shiftLeft, Nat.shiftLeft_eq,
      Nat.mul_comm]
  · exact (congrArg _ (State.getV_setResultAndFlag_flag s x _ _)).trans (toNat_shiftOutLeft _)

end Sys2Proof.Machine
end

section
/-! PROOFS of the family 42_control_flow.md: the words of its instructions, and where each leaves the program counter,
the stack and the rest of the state (spec/42_control_flow.md R180 to R188). -/

namespace Sys2Proof

/-! ### A word of the format NNN and its fields (30_encoding.md R91, R92) -/

@[simp] theorem fieldOp_nnn (p : Nibble) (nnn : Addr12) : fieldOp (p ++ nnn) = p := BitVec.extractLsb'_append_eq_left

@[simp] theorem fieldNNN_nnn (p : Nibble) (nnn : Addr12) : fieldNNN (p ++ nnn) = nnn :=
  BitVec.extractLsb'_append_eq_right

end Sys2Proof

namespace Sys2Proof.Machine

section
variable {base : Word} {nnn : Addr12} {x y n : Nibble}

/-- `base | NNN` is the format NNN with the primary nibble of the base. -/
theorem wordNNN_eq_append (p : Nibble) (h : base = p.setWidth 16 <<< 12) : wordNNN base nnn = p ++ nnn := by
  rw [h, wordNNN, ← BitVec.setWidth_eq (p ++ nnn), BitVec.setWidth_append_eq_shiftLeft_setWidth_or]

/-- `base | X << 8 | Y << 4 | N` is the format XYN with the primary nibble of the base. -/
theorem wordXYN_eq_append (p : Nibble) (h : base = p.setWidth 16 <<< 12) :
    wordXYN base x y n = p ++ x ++ y ++ n := by
  rw [h, wordXYN, ← BitVec.setWidth_eq (p ++ x ++ y ++ n),
    BitVec.setWidth_append_append_append_eq_shiftLeft_setWidth_or]

/-- A word of the format NNN, by the switch of R96. -/
theorem decodeWord_wordNNN (p : Nibble) (h : base = p.setWidth 16 <<< 12) :
    decodeWord (wordNNN base nnn) = decodeSwitch (p ++ nnn) := by
  rw [wordNNN_eq_append p h, switchAgreesWithTable]

/-- A word of the format XY with a fixed N, by the switch of R96. -/
theorem decodeWord_wordXY (p n : Nibble) (h : base = p.setWidth 16 <<< 12 ||| n.setWidth 16) :
    decodeWord (wordXY base x y) = decodeSwitch (p ++ x ++ y ++ n) := by
  rw [wordXY_eq_append p n h, switchAgreesWithTable]

/-- 5XYN and 9XYN with an N that is not 0 select no row (30_encoding.md R97). -/
theorem decodeWord_wordXYN_unknown (p : Nibble) (h : base = p.setWidth 16 <<< 12) (hp : p = 0x5 ∨ p = 0x9)
    (hn : n ≠ 0) : decodeWord (wordXYN base x y n) = .unknown (wordXYN base x y n) := by
  rw [wordXYN_eq_append p h, ← switchAgreesWithTable]
  rcases hp with rfl | rfl <;> simpa [decodeSwitch] using hn

end

/-- 0NNN is the row SYS but for the two words that stand before it (30_encoding.md R95). -/
theorem decodeWord_wordNNN_0 {nnn : Addr12} (hcls : nnn ≠ 0x0E0) (hret : nnn ≠ 0x0EE) :
    decodeWord (wordNNN 0x0000 nnn) = .unknown (wordNNN 0x0000 nnn) := by
  have fixed {k : Addr12} (hk : nnn ≠ k) : 0x0#4 ++ nnn ≠ 0x0#4 ++ k :=
    fun h => hk ((BitVec.append_right_inj _).mp h)
  have word : wordNNN 0x0000 nnn = 0x0#4 ++ nnn := wordNNN_eq_append 0x0 rfl
  rw [word, ← decodeWord_of_op_0 (fieldOp_nnn 0x0#4 nnn)]
  exact (if_neg (fixed hcls)).trans (if_neg (fixed hret))

/-! ### Frames of the updates that this family makes: the program counter, and the stack -/

section
variable (s : State)

theorem unchanged_jump (target : Word) : Unchanged s (s.jump target) [] := by
  apply Unchanged.intro <;> simp [SameOutside]

theorem unchanged_advance : Unchanged s s.advance [] := unchanged_jump s _

theorem unchanged_skipIf (c : Bool) : Unchanged s (s.skipIf c) [] := unchanged_jump s _

theorem unchanged_push_jump (v target : Word) (h : s.sp.val < 16) :
    Unchanged s ((s.push v h).jump target) [.stack] := by
  apply Unchanged.intro <;> simp [SameOutside]

theorem unchanged_drop_jump (target : Word) : Unchanged s (s.drop.jump target) [.stack] := by
  apply Unchanged.intro <;> simp [SameOutside]

/-- A push writes the first free entry of the stack only (10_state.md R27). -/
theorem State.stackAt_push (v : Word) (h : s.sp.val < 16) (k : Fin 16) :
    (s.push v h).stackAt k = if k.val = s.sp.val then v else s.stackAt k := by
  simp only [State.stackAt, State.push_stack, Vector.getElem_set, eq_comm]

end

/-! ### Jumps (R183, R184) -/

theorem toNat_zext12 (nnn : Addr12) : (zext12 nnn).toNat = nnn.toNat := BitVec.toNat_setWidth_of_le (by decide)

theorem toNat_zext8 (v : Byte) : (zext8 v).toNat = v.toNat := BitVec.toNat_setWidth_of_le (by decide)

theorem exec_jp (nnn : Addr12) (s : State) : exec (.jp nnn) s = .next (s.jump (zext12 nnn)) := rfl

theorem exec_jpV0 (nnn : Addr12) (s : State) :
    exec (.jpV0 nnn) s = .next (s.jump (zext12 nnn + zext8 (s.getV 0))) := rfl

/-- Settles O7: the targets of the two jumps as numbers. -/
theorem jumpsSetThePc : Obligations.JumpsSetThePc := by
  refine fun nnn => ⟨(decodeWord_wordNNN 0x1 rfl).trans (by simp [decodeSwitch]),
    (decodeWord_wordNNN 0xB rfl).trans (by simp [decodeSwitch]), fun s => ⟨?_, ?_⟩⟩
  · exact ⟨_, exec_jp nnn s, toNat_zext12 nnn, unchanged_jump s _⟩
  · refine ⟨_, exec_jpV0 nnn s, ?_, unchanged_jump s _⟩
    rw [State.jump_pc, BitVec.toNat_add, toNat_zext12, toNat_zext8]

/-! ### Calls and returns (R181, R182) -/

section
variable {s : State}

theorem exec_call_of_lt (nnn : Addr12) (h : s.sp.val < 16) :
    exec (.call nnn) s = .next ((s.push (s.pc + 2) h).jump (zext12 nnn)) := dif_pos h

theorem exec_call_of_full (nnn : Addr12) (h : s.sp.val = 16) :
    exec (.call nnn) s = .next (s.halt .stackOverflow) := dif_neg (by omega)

/-- A return goes to the entry below the stack pointer. -/
theorem exec_ret_of_sp_eq_succ {k : Fin 16} (h : s.sp.val = k.val + 1) :
    exec .ret s = .next (s.drop.jump (s.stackAt k)) := by
  have held : 0 < s.sp.val := by omega
  have top : s.topIndex held = k := Fin.ext (Nat.sub_eq_of_eq_add h)
  rw [← top]
  exact dif_pos held

theorem exec_ret_of_empty (h : s.sp.val = 0) : exec .ret s = .next (s.halt .stackUnderflow) := dif_neg (by omega)

end

/-- Settles O8: the push and the jump below the limit of the stack, the fatal error at it. -/
theorem callPushesReturnAddress : Obligations.CallPushesReturnAddress := by
  refine fun nnn => ⟨(decodeWord_wordNNN 0x2 rfl).trans (by simp [decodeSwitch]),
    fun s => ⟨fun h => ?_, fun h => ?_⟩⟩
  · exact ⟨_, exec_call_of_lt nnn h, rfl, s.stackAt_push _ h, toNat_zext12 nnn, unchanged_push_jump s _ _ h⟩
  · exact ⟨_, exec_call_of_full nnn h, haltedWith_halt s _⟩

/-- Settles O9: the pop and the jump with an address held, the fatal error with none. -/
theorem retTakesReturnAddress : Obligations.RetTakesReturnAddress := by
  refine ⟨by decide, fun s => ⟨fun k h => ?_, fun h => ?_⟩⟩
  · exact ⟨_, exec_ret_of_sp_eq_succ h, Nat.sub_eq_of_eq_add h, rfl, fun _ => rfl, unchanged_drop_jump s _⟩
  · exact ⟨_, exec_ret_of_empty h, haltedWith_halt s _⟩

/-! ### Skips (R185 to R188) -/

/-- All four skips, of which `c` is the condition as the model computes it and `P` as the rule states it. -/
theorem skips_of_iff {s : State} {c : Bool} {P : Prop} [Decidable P] {o : Result} (ho : o = .next (s.skipIf c))
    (hc : c = true ↔ P) : ∃ t, o = .next t ∧ t.pc = (if P then s.pc + 4 else s.pc + 2) ∧ Unchanged s t [] := by
  refine ⟨_, ho, ?_, unchanged_skipIf s c⟩
  simp only [State.skipIf_pc, hc]

/-- Settles O11: the one lemma of a skip, with each of the four conditions. -/
theorem skipsCompareRegisters : Obligations.SkipsCompareRegisters := by
  refine ⟨fun x nn => ⟨?_, ?_, fun s => ⟨skips_of_iff rfl beq_iff_eq, skips_of_iff rfl bne_iff_ne⟩⟩,
    fun x y => ⟨?_, ?_, fun n hn => ?_,
      fun s => ⟨skips_of_iff rfl beq_iff_eq, skips_of_iff rfl bne_iff_ne⟩⟩⟩
  · exact (decodeWord_wordXNN 0x3 rfl).trans (by simp [decodeSwitch])
  · exact (decodeWord_wordXNN 0x4 rfl).trans (by simp [decodeSwitch])
  · exact (decodeWord_wordXY 0x5 0x0 rfl).trans (by simp [decodeSwitch])
  · exact (decodeWord_wordXY 0x9 0x0 rfl).trans (by simp [decodeSwitch])
  · exact ⟨decodeWord_wordXYN_unknown 0x5 rfl (.inl rfl) hn, decodeWord_wordXYN_unknown 0x9 rfl (.inr rfl) hn⟩

/-! ### Unknown words (R180; 60_exceptions.md R254) -/

theorem exec_unknown (w : Word) (s : State) : exec (.unknown w) s = .next s.advance := rfl

theorem executionReport_of_running {t : State} (w : Word) (i : Instr) (h : t.engine = .running) :
    executionReport w i t = ⟨.executed, some w, some i, effectOf i, errorOf i⟩ := by
  simp only [executionReport, h]

/-- Settles O12: the row SYS, the advance, and the report of the state it leaves. -/
theorem unknownWordsAreReportedNoOps : Obligations.UnknownWordsAreReportedNoOps := by
  refine ⟨fun nnn => decodeWord_wordNNN_0, fun w s => ⟨_, exec_unknown w s, rfl, unchanged_advance s⟩,
    fun w s hr hw hd => ?_⟩
  have executes : exec (decodeWord w) s = .next s.advance := by rw [hd, exec_unknown]
  have running : s.advance.engine = .running := hr
  rw [stepReport_of_exec hr hw executes, hd, executionReport_of_running w _ running]
  rfl

end Sys2Proof.Machine
end

section
/-! PROOFS of the family 43_memory_index.md: the words of its instructions, the range check that each access passes or
fails, and the index register, memory and registers it leaves (spec/43_memory_index.md R200 to R206). -/

namespace Sys2Proof.Machine

/-! ### Words of the format XKK -/

section
variable {base : Word} {x : Nibble}

/-- `base | X << 8` is the format XNN with the primary nibble and the low byte of the base. -/
theorem wordX_eq_append (p : Nibble) (nn : Byte) (h : base = p.setWidth 16 <<< 12 ||| nn.setWidth 16) :
    wordX base x = p ++ x ++ nn := by
  rw [h, wordX, ← BitVec.setWidth_eq (p ++ x ++ nn), BitVec.setWidth_append_append_eq_shiftLeft_setWidth_or]
  -- the two sides join the same three fields in different orders
  ac_rfl

/-- A word of primary nibble F, by the second level of the switch of R96. -/
theorem decodeWord_wordX_F (nn : Byte) (h : base = (0xF#4).setWidth 16 <<< 12 ||| nn.setWidth 16) :
    decodeWord (wordX base x) = decodeSwitchF (0xF#4 ++ x ++ nn) := by
  rw [wordX_eq_append 0xF#4 nn h, decodeWord_of_op_F (fieldOp_xnn 0xF#4 x nn)]

end

/-! ### Frames of successive updates -/

/-- A part that each of two changes leaves alone is left alone by both. -/
theorem Part.same.trans {p : Part} {s t u : State} (h : p.same s t) (h' : p.same t u) : p.same s u := by
  cases p with
  | registers | memory => exact fun a => (h' a).trans (h a)
  | display => exact fun a b => (h' a b).trans (h a b)
  | index | draws => exact Eq.trans h' h
  | stack =>
    obtain ⟨sp, entries⟩ := h
    obtain ⟨sp', entries'⟩ := h'
    exact ⟨sp'.trans sp, fun k => (entries' k).trans (entries k)⟩
  | timers =>
    obtain ⟨dt, st⟩ := h
    obtain ⟨dt', st'⟩ := h'
    exact ⟨dt'.trans dt, st'.trans st⟩
  | engine =>
    obtain ⟨engine, waitReg, err⟩ := h
    obtain ⟨engine', waitReg', err'⟩ := h'
    exact ⟨engine'.trans engine, waitReg'.trans waitReg, err'.trans err⟩

theorem SameOutside.trans {s t u : State} (h : SameOutside s t) (h' : SameOutside t u) : SameOutside s u := by
  obtain ⟨keys, mode, cpt, last, inputs⟩ := h
  obtain ⟨keys', mode', cpt', last', inputs'⟩ := h'
  exact ⟨keys'.trans keys, mode'.trans mode, cpt'.trans cpt, last'.trans last, inputs'.trans inputs⟩

/-- Two changes one after the other change the parts of either. -/
theorem Unchanged.trans {s t u : State} {ps qs : List Part} (h : Unchanged s t ps) (h' : Unchanged t u qs) :
    Unchanged s u (ps ++ qs) := by
  obtain ⟨outside, same⟩ := h
  obtain ⟨outside', same'⟩ := h'
  refine ⟨outside.trans outside', fun p hp => ?_⟩
  obtain ⟨hps, hqs⟩ := not_or.mp (mt List.mem_append.mpr hp)
  exact (same p hps).trans (same' p hqs)

section
variable (s : State)

theorem unchanged_setI (v : Word) : Unchanged s (s.setI v) [.index] := by
  apply Unchanged.intro <;> simp [SameOutside]

theorem unchanged_setRegs (V : Vector Byte 16) : Unchanged s (s.setRegs V) [.registers] := by
  apply Unchanged.intro <;> simp [SameOutside]

theorem unchanged_setI_advance (v : Word) : Unchanged s (s.setI v).advance [.index] :=
  (unchanged_setI s v).trans (unchanged_advance _)

theorem unchanged_setMem_advance (m : Memory) : Unchanged s (s.setMem m).advance [.memory] :=
  (unchanged_setMem s m).trans (unchanged_advance _)

theorem unchanged_setMem_setI_advance (m : Memory) (v : Word) :
    Unchanged s ((s.setMem m).setI v).advance [.memory, .index] :=
  (unchanged_setMem s m).trans (unchanged_setI_advance _ v)

theorem unchanged_setRegs_setI_advance (V : Vector Byte 16) (v : Word) :
    Unchanged s ((s.setRegs V).setI v).advance [.registers, .index] :=
  (unchanged_setRegs s V).trans (unchanged_setI_advance _ v)

end

/-! ### The range checks (R200) -/

section
variable {base len : Nat}

theorem checkWrite_of_lt (h : base < 0x200) : checkWrite base len = some (.memoryFault .writeProtected base) :=
  if_pos h

theorem checkWrite_of_gt (hl : 0x200 ≤ base) (hu : base + len - 1 > 0xFFF) :
    checkWrite base len = some (.memoryFault .write (max base 0x1000)) := by
  rw [checkWrite, if_neg (Nat.not_lt.mpr hl), if_pos hu]

theorem checkRead_of_gt (hlen : 0 < len) (hu : base + len - 1 > 0xFFF) :
    checkRead base len = some (.memoryFault .read (max base 0x1000)) := if_pos ⟨hlen, hu⟩

variable {c : Option FatalError} {e : FatalError} {s t : State}

theorem guarded_of_none (h : c = none) : guarded c s t = .next t := by rw [h, guarded]

theorem guarded_of_some (h : c = some e) : guarded c s t = .next (s.halt e) := by rw [h, guarded, raise]

/-- A failed check halts the machine with its fault, whatever the effect would have been. -/
theorem halts_of_check {o : Result} (ho : o = guarded c s t) (h : c = some e) : ∃ u, o = .next u ∧ HaltedWith s u e :=
  ⟨s.halt e, ho.trans (guarded_of_some h), haltedWith_halt s e⟩

end

/-! ### What the instructions compute -/

section
variable (s : State) (x y : Nibble) (v : Byte)

theorem toNat_lowNibble : (lowNibble v).toNat = v.toNat % 16 := by
  rw [lowNibble, BitVec.extractLsb'_toNat, Nat.shiftRight_zero]

/-- No glyph address leaves the 16 bits of the index register (R203). -/
theorem toNat_glyphAddr : (glyphAddr x).toNat = 0x050 + 5 * x.toNat := by
  have digit : x.toNat < 16 := x.isLt
  rw [glyphAddr, BitVec.toNat_ofNat, Config.fontBase, Config.fontGlyphBytes, Nat.mod_eq_of_lt (by omega)]

/-- The digits of a byte are themselves bytes (R204). -/
theorem toNat_decimalDigits : (decimalDigits v).map BitVec.toNat =
    [v.toNat / 100, v.toNat / 10 % 10, v.toNat % 10] := by
  have byte : v.toNat < 256 := v.isLt
  simp (disch := omega) only [decimalDigits, List.map, BitVec.toNat_ofNat, Nat.mod_eq_of_lt]

/-- One digit, by its place. -/
theorem toNat_getElem_decimalDigits (k : Nat) (hk : k < 3) :
    ((decimalDigits v)[k]'hk).toNat = [v.toNat / 100, v.toNat / 10 % 10, v.toNat % 10][k] :=
  (List.getElem_map BitVec.toNat).symm.trans (List.getElem_of_eq (toNat_decimalDigits v) hk)

/-- The index register after FX55 and FX65 as a number (R205, R206). -/
theorem State.toNat_indexAfter : (s.indexAfter x).toNat =
    if s.mode = .legacy then (s.baseAddr + x.toNat + 1) % 65536 else s.baseAddr := by
  unfold State.indexAfter
  cases s.mode with
  | legacy => simp [State.baseAddr, BitVec.toNat_add, Nat.add_assoc]
  | chip48 => rfl

/-- Of the registers stored from number 0 on, the one with number `y` is at place `y`. -/
theorem State.getElem_registerBytes_zero (n : Nat) (h : y.toNat < (s.registerBytes 0 n).length) :
    (s.registerBytes 0 n)[y.toNat] = s.getV y := by
  rw [State.getElem_registerBytes, Nat.zero_add, BitVec.ofNat_toNat, BitVec.setWidth_eq]

/-- The registers up to X are loaded and those above X are not (R206). -/
theorem State.getV_setRegisters_readBytes (a : Nat) :
    (s.setRegs (setRegisters s.V 0 (Memory.readBytes s.mem a (x.toNat + 1)))).getV y =
      if y.toNat ≤ x.toNat then Memory.read s.mem (a + y.toNat) else s.getV y := by
  rw [State.getV, State.setRegs_V, getElem_setRegisters]
  simp [Memory.getElem_readBytes, State.getV]

variable {s}

/-- A store of several bytes changes no byte outside its range. -/
theorem sameMemoryOutside_writeBytes {t : State} {a n : Nat} {bs : List Byte}
    (ht : t.mem = Memory.writeBytes s.mem a bs) (hn : bs.length = n) : SameMemoryOutside s t a n := by
  intro b hb
  rw [ht, Memory.read_writeBytes_outside bs s.mem (hn ▸ hb)]

end

/-! ### What each instruction does -/

section
variable (x : Nibble) (s : State)

theorem exec_ldI (nnn : Addr12) : exec (.ldI nnn) s = .next (s.setI (zext12 nnn)).advance := rfl

theorem exec_addIVx : exec (.addIVx x) s = .next (s.setI (s.I + zext8 (s.getV x))).advance := rfl

theorem exec_ldFVx : exec (.ldFVx x) s = .next (s.setI (glyphAddr (lowNibble (s.getV x)))).advance := rfl

theorem exec_ldBVx : exec (.ldBVx x) s = guarded (checkWrite s.baseAddr 3) s
    (s.setMem (Memory.writeBytes s.mem s.baseAddr (decimalDigits (s.getV x)))).advance := rfl

theorem exec_storeRegs : exec (.storeRegs x) s = guarded (checkWrite s.baseAddr (x.toNat + 1)) s
    ((s.setMem (Memory.writeBytes s.mem s.baseAddr (s.registerBytes 0 (x.toNat + 1)))).setI
      (s.indexAfter x)).advance := rfl

theorem exec_loadRegs : exec (.loadRegs x) s = guarded (checkRead s.baseAddr (x.toNat + 1)) s
    ((s.setRegs (setRegisters s.V 0 (Memory.readBytes s.mem s.baseAddr (x.toNat + 1)))).setI
      (s.indexAfter x)).advance := rfl

end

/-- Settles O14: the three digits at their places, or the fault of the write check. -/
theorem decimalStore : Obligations.DecimalStore := by
  refine fun x => ⟨(decodeWord_wordX_F 0x33 rfl).trans (by simp [decodeSwitchF]), fun s hm =>
    ⟨fun hl hu => ?_, fun h => halts_of_check (exec_ldBVx x s) (checkWrite_of_lt h),
      fun h => halts_of_check (exec_ldBVx x s) (checkWrite_of_gt (by omega) h)⟩⟩
  have passed : checkWrite s.baseAddr 3 = none := checkWrite_eq_none.mpr ⟨hl, hu⟩
  have fits : s.baseAddr + (decimalDigits (s.getV x)).length ≤ Config.memSize := Nat.lt_succ_of_le hu
  have stored (k : Nat) (hk : k < 3) :=
    (congrArg BitVec.toNat (Memory.read_writeBytes_inside (decimalDigits (s.getV x)) hm fits k hk)).trans
      (toNat_getElem_decimalDigits (s.getV x) k hk)
  exact ⟨_, (exec_ldBVx x s).trans (guarded_of_none passed), stored 0 (by decide), stored 1 (by decide),
    stored 2 (by decide), sameMemoryOutside_writeBytes rfl rfl, unchanged_setMem_advance s _, rfl⟩

/-- Settles O15: each register at its place, or the fault of the write check. -/
theorem registerStore : Obligations.RegisterStore := by
  refine fun x => ⟨(decodeWord_wordX_F 0x55 rfl).trans (by simp [decodeSwitchF]), fun s hm =>
    ⟨fun hl hu => ?_, fun h => halts_of_check (exec_storeRegs x s) (checkWrite_of_lt h),
      fun h => halts_of_check (exec_storeRegs x s) (checkWrite_of_gt (by bv_omega) h)⟩⟩
  have passed : checkWrite s.baseAddr (x.toNat + 1) = none := checkWrite_eq_none.mpr ⟨hl, hu⟩
  have length : (s.registerBytes 0 (x.toNat + 1)).length = x.toNat + 1 := s.length_registerBytes 0 _
  refine ⟨_, (exec_storeRegs x s).trans (guarded_of_none passed), fun y hy => ?_,
    sameMemoryOutside_writeBytes rfl length, s.toNat_indexAfter x, unchanged_setMem_setI_advance s _ _, rfl⟩
  have place : y.toNat < (s.registerBytes 0 (x.toNat + 1)).length := by omega
  have fits : s.baseAddr + (s.registerBytes 0 (x.toNat + 1)).length ≤ Config.memSize := by
    rw [length]; exact Nat.lt_succ_of_le hu
  exact (Memory.read_writeBytes_inside _ hm fits y.toNat place).trans (s.getElem_registerBytes_zero y _ place)

/-- Settles O16: the registers up to X from memory, or the fault of the read check. -/
theorem registerLoad : Obligations.RegisterLoad := by
  refine fun x => ⟨(decodeWord_wordX_F 0x65 rfl).trans (by simp [decodeSwitchF]), fun s => ⟨fun hu => ?_,
    fun h => halts_of_check (exec_loadRegs x s) (checkRead_of_gt (Nat.succ_pos _) h)⟩⟩
  have passed : checkRead s.baseAddr (x.toNat + 1) = none := checkRead_eq_none.mpr fun _ => hu
  exact ⟨_, (exec_loadRegs x s).trans (guarded_of_none passed),
    fun y => s.getV_setRegisters_readBytes x y s.baseAddr, s.toNat_indexAfter x,
    unchanged_setRegs_setI_advance s _ _, rfl⟩

/-- Settles O13: the three values of the index register as numbers. -/
theorem indexRegisterWrites : Obligations.IndexRegisterWrites := by
  refine ⟨fun nnn => ⟨(decodeWord_wordNNN 0xA rfl).trans (by simp [decodeSwitch]), fun s => ?_⟩,
    fun x => ⟨(decodeWord_wordX_F 0x1E rfl).trans (by simp [decodeSwitchF]),
      (decodeWord_wordX_F 0x29 rfl).trans (by simp [decodeSwitchF]), fun s => ⟨?_, ?_⟩⟩⟩
  · exact ⟨_, exec_ldI s nnn, toNat_zext12 nnn, unchanged_setI_advance s _, rfl⟩
  · refine ⟨_, exec_addIVx x s, ?_, unchanged_setI_advance s _, rfl⟩
    rw [State.advance_I, State.setI_I, BitVec.toNat_add, toNat_zext8]
  · refine ⟨_, exec_ldFVx x s, ?_, unchanged_setI_advance s _, rfl⟩
    rw [State.advance_I, State.setI_I, toNat_glyphAddr, toNat_lowNibble]

end Sys2Proof.Machine
end

section
/-! PROOFS of the family 44_display.md: the sprite bit that falls on a pixel, a draw as its pixels and its collision, and
the two instructions of the display with their reports (spec/44_display.md R220, R221). -/

namespace Sys2Proof.Machine

/-! ### The sprite bit that falls on a pixel -/

/-- How many columns right of the start position a pixel lies, modulo the width of the display. -/
def columnOffset (v : Byte) (px : Fin 64) : Nat := (px.val + 64 - v.toNat % 64) % 64

/-- How many rows below the start position a pixel lies, modulo the height of the display. -/
def rowOffset (v : Byte) (py : Fin 32) : Nat := (py.val + 32 - v.toNat % 32) % 32

theorem column_eq_iff {v : Byte} {c : Nat} {px : Fin 64} (hc : c < 64) : column v c = px ↔ c = columnOffset v px := by
  simp only [column, columnOffset, Fin.ofNat, Fin.ext_iff]
  omega

theorem row_eq_iff {v : Byte} {r : Nat} {py : Fin 32} (hr : r < 32) : row v r = py ↔ r = rowOffset v py := by
  simp only [row, rowOffset, Fin.ofNat, Fin.ext_iff]
  omega

/-- Of the eight bits of a sprite byte, only the one at the pixel's column can fall on it. -/
theorem rowCovers_iff {v b : Byte} {px : Fin 64} :
    rowCovers v b 0 8 px ↔ columnOffset v px < 8 ∧ b.getLsbD (7 - columnOffset v px) = true := by
  constructor
  · rintro ⟨c, -, hc, bit, place⟩
    obtain rfl := (column_eq_iff (by omega)).mp place
    exact ⟨by omega, bit⟩
  · rintro ⟨hc, bit⟩
    exact ⟨_, Nat.zero_le _, by omega, bit, (column_eq_iff (by omega)).mpr rfl⟩

/-- Of the bytes of a sprite, only the one at the pixel's row can fall on it. -/
theorem spriteCovers_iff {vx vy : Byte} {sprite : List Byte} {px : Fin 64} {py : Fin 32} (hlen : sprite.length ≤ 32) :
    spriteCovers vx vy 0 sprite px py ↔
      ∃ h : rowOffset vy py < sprite.length, rowCovers vx sprite[rowOffset vy py] 0 8 px := by
  constructor
  · rintro ⟨r, hr, place, covers⟩
    rw [Nat.zero_add] at place
    obtain rfl := (row_eq_iff (by omega)).mp place
    exact ⟨hr, covers⟩
  · rintro ⟨hr, covers⟩
    exact ⟨_, hr, by rw [Nat.zero_add]; exact (row_eq_iff (by omega)).mpr rfl, covers⟩

/-! ### A draw as its pixels and its collision (R221) -/

/-- What DXYN makes of the display, and whether a pixel went from 1 to 0. -/
def State.drawn (s : State) (x y n : Nibble) : Canvas :=
  Display.drawSprite s.disp (s.getV x) (s.getV y) (Memory.readBytes s.mem s.baseAddr n.toNat)

/-- A word of the format XYN, by the switch of R96. -/
theorem decodeWord_wordXYN {base : Word} {x y n : Nibble} (p : Nibble) (h : base = p.setWidth 16 <<< 12) :
    decodeWord (wordXYN base x y n) = decodeSwitch (p ++ x ++ y ++ n) := by
  rw [wordXYN_eq_append p h, switchAgreesWithTable]

section
variable (s : State) (x y n : Nibble)

theorem exec_cls : exec .cls s = .next (s.setDisp Display.clear).advance := rfl

theorem exec_drw : exec (.drw x y n) s = guarded (checkRead s.baseAddr n.toNat) s
    ((s.setDisp (s.drawn x y n).disp).setV regF (flagByte (s.drawn x y n).hit)).advance := rfl

/-- A sprite has at most 15 rows, fewer than the display. -/
theorem length_sprite_le : (Memory.readBytes s.mem s.baseAddr n.toNat).length ≤ 32 := by
  rw [Memory.length_readBytes]
  omega

/-- The sprite bit is 1 on exactly the pixels that the sprite in memory covers. -/
theorem spriteBit_iff_covers (px : Fin 64) (py : Fin 32) : spriteBit s x y n px py = true ↔
    spriteCovers (s.getV x) (s.getV y) 0 (Memory.readBytes s.mem s.baseAddr n.toNat) px py := by
  rw [spriteCovers_iff (length_sprite_le s n)]
  simp only [rowCovers_iff, Memory.getElem_readBytes, Memory.length_readBytes, exists_prop, spriteBit, columnOffset,
    rowOffset, Bool.and_eq_true, decide_eq_true_eq]
  tauto

/-- A draw changes the pixels on which a 1 bit of the sprite falls, and hits those of them that were 1. -/
theorem drawn_spec :
    (∀ px py, Display.pixel (s.drawn x y n).disp px py ≠ Display.pixel s.disp px py ↔
      spriteBit s x y n px py = true) ∧
    ((s.drawn x y n).hit = true ↔
      ∃ px py, spriteBit s x y n px py = true ∧ Display.pixel s.disp px py = true) := by
  have fits := (Nat.zero_add _).trans_le (length_sprite_le s n)
  obtain ⟨changes, hits⟩ := Canvas.drawRows_spec (s.getV x) (s.getV y) _ 0 ⟨s.disp, false⟩ fits
  simp only [spriteBit_iff_covers]
  exact ⟨changes, hits.trans (or_iff_right Bool.false_ne_true)⟩

/-- A changed pixel is an inverted one. -/
theorem pixel_drawn (px : Fin 64) (py : Fin 32) : Display.pixel (s.drawn x y n).disp px py =
    (Display.pixel s.disp px py ^^ spriteBit s x y n px py) := by
  obtain ⟨changes, -⟩ := drawn_spec s x y n
  cases hb : spriteBit s x y n px py with
  | false =>
    rw [Bool.xor_false]
    exact not_not.mp fun changed => by simpa [hb] using (changes px py).mp changed
  | true =>
    rw [Bool.xor_true]
    exact Bool.eq_not.mpr ((changes px py).mpr hb)

/-- The hit of a draw is a pixel that was 1 and is 0 after it. -/
theorem hit_drawn_iff : (s.drawn x y n).hit = true ↔
    ∃ px py, Display.pixel s.disp px py = true ∧ Display.pixel (s.drawn x y n).disp px py = false := by
  obtain ⟨-, hits⟩ := drawn_spec s x y n
  refine hits.trans (exists_congr fun px => exists_congr fun py => ?_)
  rw [pixel_drawn]
  cases Display.pixel s.disp px py <;> simp

end

/-- A flag is 1 or 0 as its condition holds or does not. -/
theorem flagByte_cases {b : Bool} {P : Prop} (h : b = true ↔ P) :
    (flagByte b = 1 ∧ P) ∨ (flagByte b = 0 ∧ ¬ P) := by
  cases b with
  | false => exact .inr ⟨rfl, fun p => Bool.false_ne_true (h.mpr p)⟩
  | true => exact .inl ⟨rfl, h.mp rfl⟩

/-! ### Frames of the updates that this family makes, and the report of what completes -/

/-- A longer list of parts, in whatever order, makes a weaker frame. -/
theorem Unchanged.mono {s t : State} {ps qs : List Part} (h : Unchanged s t ps) (hsub : ps ⊆ qs) :
    Unchanged s t qs := by
  obtain ⟨outside, same⟩ := h
  exact ⟨outside, fun p hp => same p fun hps => hp (hsub hps)⟩

section
variable (s : State) (d : Display)

theorem unchanged_setDisp : Unchanged s (s.setDisp d) [.display] := by
  apply Unchanged.intro <;> simp [SameOutside]

theorem unchanged_setDisp_advance : Unchanged s (s.setDisp d).advance [.display] :=
  (unchanged_setDisp s d).trans (unchanged_advance _)

theorem unchanged_setDisp_setV_advance (x : Nibble) (v : Byte) :
    Unchanged s ((s.setDisp d).setV x v).advance [.registers, .display] :=
  ((unchanged_setDisp s d).trans (unchanged_setV_advance _ x v)).mono (by decide)

end

/-- An instruction after which the engine still runs reports its own effect (10_state.md R44). -/
theorem stepReport_effect {s t : State} {w : Word} {i : Instr} (hd : decodeWord w = i) (ht : exec i s = .next t)
    (running : t.engine = .running) (hr : s.engine = .running) (hw : s.fetch = .ok w) :
    (stepReport s).effect = effectOf i := by
  subst hd
  rw [stepReport_of_exec hr hw ht, executionReport_of_running w _ running]

/-! ### What each instruction does -/

/-- Settles O17: the zero buffer, and the report of the state it leaves. -/
theorem clearZeroesTheDisplay : Obligations.ClearZeroesTheDisplay := by
  have decodes : decodeWord 0x00E0 = .cls := by decide
  exact ⟨decodes, fun s => ⟨_, exec_cls s, Display.pixel_clear, unchanged_setDisp_advance s _, rfl⟩,
    fun s hr hw => stepReport_effect decodes (exec_cls s) hr hr hw⟩

/-- Settles O18: the pixels and the collision of the draw, or the fault of the read check. -/
theorem drawInvertsSpritePixels : Obligations.DrawInvertsSpritePixels := by
  intro x y n
  have decodes : decodeWord (wordXYN 0xD000 x y n) = .drw x y n :=
    (decodeWord_wordXYN 0xD rfl).trans (by simp [decodeSwitch])
  refine ⟨decodes, fun s => ⟨fun h => ?_,
    fun hn h => halts_of_check (exec_drw s x y n) (checkRead_of_gt (by bv_omega) h)⟩⟩
  have passed : checkRead s.baseAddr n.toNat = none :=
    checkRead_eq_none.mpr fun hlen => h.resolve_left (by bv_omega)
  have executes := (exec_drw s x y n).trans (guarded_of_none passed)
  refine ⟨_, executes, pixel_drawn s x y n, ?_, sameVBut_setV (s.setDisp _) regF _,
    unchanged_setDisp_setV_advance s _ _ _, rfl, fun hr hw => stepReport_effect decodes executes hr hr hw⟩
  rw [← regF, State.getV_advance, State.getV_setV_same]
  exact flagByte_cases (hit_drawn_iff s x y n)

end Sys2Proof.Machine
end

section
/-! PROOFS of the family 45_keypad_timers.md: the words of its instructions, the two skips on a bit of the Input Latch,
and the reads and writes of the timers with the tone and the reports (spec/45_keypad_timers.md R230 to R236). -/

namespace Sys2Proof.Machine

/-! ### Words and executions -/

/-- A word of primary nibble E, by the second level of the switch of R96. -/
theorem decodeWord_wordX_E {base : Word} {x : Nibble} (nn : Byte)
    (h : base = (0xE#4).setWidth 16 <<< 12 ||| nn.setWidth 16) :
    decodeWord (wordX base x) =
      if nn = 0x9E then .skp x else if nn = 0xA1 then .sknp x else .unknown (wordX base x) := by
  have word : wordX base x = 0xE#4 ++ x ++ nn := wordX_eq_append 0xE#4 nn h
  rw [word, ← decodeWord_of_op_E (fieldOp_xnn 0xE#4 x nn), fieldX_xnn, fieldNN_xnn]

section
variable (x : Nibble) (s : State)

theorem exec_skp : exec (.skp x) s = .next (s.skipIf (s.keyDown (lowNibble (s.getV x)))) := rfl

theorem exec_sknp : exec (.sknp x) s = .next (s.skipIf (!s.keyDown (lowNibble (s.getV x)))) := rfl

theorem exec_ldVxDt : exec (.ldVxDt x) s = .next (s.setV x s.dt).advance := rfl

theorem exec_ldDtVx : exec (.ldDtVx x) s = .next (s.setDt (s.getV x)).advance := rfl

theorem exec_ldStVx : exec (.ldStVx x) s = .next (s.setSt (s.getV x)).advance := rfl

end

/-! ### The keypad (R230, R231, R236) -/

/-- The key that a byte names is the latch bit with the number of its low nibble (R236). -/
theorem State.keyDown_lowNibble (s : State) (v : Byte) : s.keyDown (lowNibble v) = s.keys.getLsbD (v.toNat % 16) :=
  congrArg s.keys.getLsbD (toNat_lowNibble v)

/-- A skip on the negation of a bit, where a bit that is 1 means the plain advance. -/
theorem skips_of_not {s : State} {c : Bool} {o : Result} (ho : o = .next (s.skipIf (!c))) :
    ∃ t, o = .next t ∧ t.pc = (if c then s.pc + 2 else s.pc + 4) ∧ Unchanged s t [] := by
  simpa only [ite_not] using skips_of_iff ho (Bool.not_iff_not (b := c))

/-- Settles O20: the lemmas of a skip, with the latch bit and with its negation. -/
theorem keySkipsTestTheLatch : Obligations.KeySkipsTestTheLatch := by
  refine fun x => ⟨decodeWord_wordX_E 0x9E rfl, decodeWord_wordX_E 0xA1 rfl, fun s => ?_⟩
  rw [exec_skp, exec_sknp, State.keyDown_lowNibble]
  exact ⟨skips_of_iff rfl Iff.rfl, skips_of_not rfl⟩

/-! ### The timers (R233 to R235) -/

section
variable (s : State) (v : Byte)

theorem unchanged_setDt : Unchanged s (s.setDt v) [.timers] := by
  apply Unchanged.intro <;> simp [SameOutside]

theorem unchanged_setSt : Unchanged s (s.setSt v) [.timers] := by
  apply Unchanged.intro <;> simp [SameOutside]

theorem unchanged_setDt_advance : Unchanged s (s.setDt v).advance [.timers] :=
  (unchanged_setDt s v).trans (unchanged_advance _)

theorem unchanged_setSt_advance : Unchanged s (s.setSt v).advance [.timers] :=
  (unchanged_setSt s v).trans (unchanged_advance _)

/-- The tone is on while the sound timer is above 0 (10_state.md R41). -/
theorem toneOn_iff : toneOn s = true ↔ s.st.toNat > 0 := decide_eq_true_iff

end

/-- Settles O23: the register or the timer that each writes, and the effects reported of the states they leave. -/
theorem timerReadsAndWrites : Obligations.TimerReadsAndWrites := by
  intro x
  have decodesDt : decodeWord (wordX 0xF015 x) = .ldDtVx x :=
    (decodeWord_wordX_F 0x15 rfl).trans (by simp [decodeSwitchF])
  have decodesSt : decodeWord (wordX 0xF018 x) = .ldStVx x :=
    (decodeWord_wordX_F 0x18 rfl).trans (by simp [decodeSwitchF])
  refine ⟨(decodeWord_wordX_F 0x07 rfl).trans (by simp [decodeSwitchF]), decodesDt, decodesSt,
    fun s => ⟨?_, ?_, ?_, fun hr hw => ?_, fun hr hw => ?_⟩⟩
  · obtain ⟨others, frame, pc⟩ := frame_setV_advance s x s.dt
    exact ⟨_, exec_ldVxDt x s, State.getV_setV_same s x s.dt, others, frame, pc⟩
  · exact ⟨_, exec_ldDtVx x s, rfl, rfl, unchanged_setDt_advance s _, rfl⟩
  · exact ⟨_, exec_ldStVx x s, rfl, rfl, unchanged_setSt_advance s _, rfl, toneOn_iff _⟩
  · exact stepReport_effect decodesDt (exec_ldDtVx x s) hr hr hw
  · exact stepReport_effect decodesSt (exec_ldStVx x s) hr hr hw

end Sys2Proof.Machine
end

section
/-! PROOFS of the family 60_exceptions.md: the entry to `Halted` from a failed fetch and from an execution, with the
report of each, and the timer clock (spec/60_exceptions.md R250, R265, R267). -/

namespace Sys2Proof.Machine

/-! ### The entry to `Halted` and its report (R250) -/

section
variable {s t : State} {e : FatalError} {i : Instr}

/-- From a machine that is not halted, the only way for an instruction to halt it is the entry of R250. -/
theorem exec_halted_eq_halt (hs : s.engine ≠ .halted) (h : exec i s = .next t) (ht : t.engine = .halted) :
    ∃ e, t = s.halt e := by
  obtain ⟨u, executes, halts | ⟨-, ⟨x, -, waits⟩ | ⟨keeps, -⟩⟩⟩ := exec_cases i s <;> cases executes.symm.trans h
  · exact halts
  · cases ht.symm.trans waits
  · exact absurd (keeps.symm.trans ht) hs

theorem executionReport_halt (w : Word) (i : Instr) (s : State) (e : FatalError) :
    executionReport w i (s.halt e) = ⟨.faulted, some w, some i, none, some (.fatal e)⟩ := rfl

/-- The report of a `Step` whose fetch fails has no word and no instruction (40_execution_cycle.md R121). -/
theorem stepReport_of_fetch_error (hr : s.engine = .running) (hf : s.fetch = .error e) :
    stepReport s = ⟨.faulted, none, none, none, some (.fatal e)⟩ := by
  simp only [stepReport, hr, runningReport, hf]

end

/-- Settles O38: the fetch fails, or it gives a word whose execution halts; the two last clauses tell them apart. -/
theorem fatalErrorsArePrecise : Obligations.FatalErrorsArePrecise := by
  intro s t hr hstep ht
  rcases stepEvent_cases s with ⟨-, e, hf, halts⟩ | ⟨-, w, hf, executes⟩ | ⟨hw, -⟩ | ⟨hp | hh, -⟩
  · cases halts.symm.trans hstep
    rw [stepReport_of_fetch_error hr hf, hf]
    refine ⟨e, haltedWith_halt s e, rfl, rfl, fun _ fetched => (by cases fetched), fun f failed => ?_⟩
    cases failed
    exact ⟨rfl, rfl, rfl⟩
  · have hexec := executes.symm.trans hstep
    obtain ⟨e, rfl⟩ := exec_halted_eq_halt (by simp [hr]) hexec ht
    rw [stepReport_of_exec hr hf hexec, executionReport_halt, hf]
    refine ⟨e, haltedWith_halt s e, rfl, rfl, fun v fetched => ?_, fun _ failed => (by cases failed)⟩
    cases fetched
    exact ⟨rfl, rfl⟩
  -- a running engine is none of the other three
  · cases hr.symm.trans hw
  · cases hr.symm.trans hp
  · cases hr.symm.trans hh

/-! ### The timer clock (R265, R267) -/

section
variable (s : State)

@[simp] theorem tickEvent_st : (tickEvent s).st = countDown s.st := rfl

theorem tickEvent_eq_setDt_setSt : tickEvent s = (s.setDt (countDown s.dt)).setSt (countDown s.st) := rfl

/-- A tick is two writes, one of each timer. -/
theorem unchanged_tickEvent : Unchanged s (tickEvent s) [.timers] := by
  rw [tickEvent_eq_setDt_setSt]
  exact ((unchanged_setDt s _).trans (unchanged_setSt _ _)).mono (by decide)

end

/-- Settles O40: the countdown of each timer, and the tone of the state it leaves. -/
theorem tickDecrementsTimers : Obligations.TickDecrementsTimers := by
  refine fun s => ⟨tickEvent s, rfl, toNat_countDown s.dt, toNat_countDown s.st, ?_, unchanged_tickEvent s, rfl⟩
  rw [toneOn_iff, tickEvent_st, toNat_countDown]

end Sys2Proof.Machine
end

section
/-! PROOFS of the family 70_reset_and_hazards.md: a load that is refused and a load that is accepted, and the state that
`Construct` gives (spec/70_reset_and_hazards.md R290, R292). -/

namespace Sys2Proof.Machine

/-! ### Load (R292) -/

section
variable {s : State} {bytes : List Byte}

theorem loadEvent_of_gt (h : bytes.length > 3584) : loadEvent bytes s = s := if_pos h

theorem loadEvent_of_le (h : bytes.length ≤ 3584) : loadEvent bytes s = s.setMem (Memory.writeBytes s.mem 0x200 bytes) :=
  if_neg (Nat.not_lt.mpr h)

theorem loadResult_of_gt (h : bytes.length > 3584) : loadResult bytes = .romTooLarge := if_pos h

theorem loadResult_of_le (h : bytes.length ≤ 3584) : loadResult bytes = .ok := if_neg (Nat.not_lt.mpr h)

end

/-- Settles O44: an image of at most 3584 bytes fits between 0x200 and the end of memory, so each of its bytes reads as it
was written. -/
theorem loadWritesTheImage : Obligations.LoadWritesTheImage := by
  intro s bytes hm
  refine ⟨fun h => ⟨congrArg _ (loadEvent_of_gt h), congrArg _ (loadResult_of_gt h)⟩, fun h =>
    ⟨s.setMem (Memory.writeBytes s.mem 0x200 bytes), congrArg _ (loadEvent_of_le h), congrArg _ (loadResult_of_le h), ?_,
      sameMemoryOutside_writeBytes rfl rfl, unchanged_setMem s _, rfl⟩⟩
  have fits : 0x200 + bytes.length ≤ Config.memSize := Nat.add_le_add_left h 0x200
  exact Memory.read_writeBytes_inside bytes hm fits

/-! ### Construct (R290) -/

/-- The font, read from the byte table of R46. -/
theorem resetByte_fontBase_add (i : Nat) : Config.resetByte (0x050 + i) = Config.fontData.getD i 0 := by
  simp [Config.resetByte]

/-- The zero fill around the font. -/
theorem resetByte_outside_font {a : Nat} (h : a < 0x050 ∨ 0x0A0 ≤ a) : Config.resetByte a = 0 := by
  rcases h with below | above
  · exact if_neg (Nat.not_le.mpr below)
  · have past : Config.fontData.length ≤ a - 0x050 := by rw [length_fontData]; omega
    exact (if_pos (Nat.le_trans (by decide) above)).trans (List.getD_eq_default _ 0 past)

@[simp] theorem pixel_applyReset (s : State) (px : Fin 64) (py : Fin 32) :
    Display.pixel s.applyReset.disp px py = false :=
  Display.pixel_clear px py

/-- The zero fill and the font written over it are what an unlisted byte reads as. -/
theorem read_constructEvent_mem (mode : Mode) (cpt : PNat) (now : Rat) (s : State) (a : Nat) :
    Memory.read (constructEvent mode cpt now s).mem a = Config.resetByte a := by
  rw [constructEvent, State.applyReset_mem, font_over_zeros, Memory.read]

/-- Settles O45: the arguments and the latch as `Construct` writes them, memory as `read_constructEvent_mem` has it, and the
rest as `Reset` leaves it. -/
theorem constructInitialisesEverything : Obligations.ConstructInitialisesEverything := by
  intro s mode cpt now
  have mem := read_constructEvent_mem mode cpt now s
  exact ⟨constructEvent mode cpt now s, rfl, rfl, rfl, rfl, rfl, State.getV_applyReset _, rfl, rfl, rfl,
    State.stackAt_applyReset _, fun i _ => (mem _).trans (resetByte_fontBase_add i),
    fun a outside => (mem a).trans (resetByte_outside_font outside), pixel_applyReset _, rfl, rfl, rfl, rfl, rfl⟩

end Sys2Proof.Machine
end

section
/-! PROOFS of the family other, decoding: every word and the instruction it decodes to stand for each other
(spec/30_encoding.md R92 to R97), so decoding and encoding undo each other. -/

namespace Sys2Proof

/-! ### A word as its fields and as its bytes (30_encoding.md R91, R92) -/

section
variable {w : Word} {p n : Nibble} {nn : Byte}

theorem nnn_of_op (hop : fieldOp w = p) : p ++ fieldNNN w = w := by
  have word : fieldOp w ++ fieldNNN w = w.extractLsb' 0 16 := BitVec.extractLsb'_append_extractLsb'_eq_extractLsb' rfl
  rw [← hop]
  exact word.trans BitVec.extractLsb'_eq_self

theorem xnn_of_op (hop : fieldOp w = p) (hnn : fieldNN w = nn) : p ++ fieldX w ++ nn = w := by
  rw [← hop, ← hnn]
  exact BitVec.append_assoc.trans (op_append_x_append_nn w)

theorem xyn_of_op (hop : fieldOp w = p) (hn : fieldN w = n) : p ++ fieldX w ++ fieldY w ++ n = w := by
  rw [xyn_eq_xnn, ← hn, y_append_n]
  exact xnn_of_op hop rfl

end

/-- The two bytes that memory holds of a word are the word again (20_memory.md R60). -/
theorem wordOfBytes_halves (w : Word) : wordOfBytes (w.extractLsb' 8 8) (w.extractLsb' 0 8) = w :=
  (BitVec.extractLsb'_append_extractLsb'_eq_extractLsb' rfl).trans BitVec.extractLsb'_eq_self

theorem decode_bytesOfWord_append (w : Word) (rest : List Byte) :
    decode (bytesOfWord w ++ rest) = .ok (decodeWord w, rest) := by
  simp only [bytesOfWord, List.cons_append, List.nil_append, decode, wordOfBytes_halves]

/-! ### Every word stands for the instruction it decodes to (30_encoding.md R94 to R97) -/

/-- A word and an instruction stand for each other: the instruction is well-formed and the word is its encoding. -/
def Denotes (w : Word) (i : Instr) : Prop := WellFormed i ∧ encode i = w

section
variable {w : Word}

theorem Denotes.unknown (h : isUnknownWord w = true) : Denotes w (.unknown w) := ⟨h, rfl⟩

/-- The two branches of one test of the switch. -/
theorem Denotes.ite {i j : Instr} {c : Prop} [Decidable c] (hi : c → Denotes w i) (hj : ¬ c → Denotes w j) :
    Denotes w (if c then i else j) := by
  split
  · exact hi ‹_›
  · exact hj ‹_›

/-- The N that select no row of primary nibble 8 (30_encoding.md R97). -/
theorem mem_unlisted_of_ne : ∀ n : Nibble, n ≠ 0x0 → n ≠ 0x1 → n ≠ 0x2 → n ≠ 0x3 → n ≠ 0x4 → n ≠ 0x5 → n ≠ 0x6 →
    n ≠ 0x7 → n ≠ 0xE → n ∈ [0x8#4, 0x9, 0xA, 0xB, 0xC, 0xD, 0xF] := by decide

theorem denotes_decodeSwitch8 (hop : fieldOp w = 0x8) : Denotes w (decodeSwitch8 w) := by
  unfold decodeSwitch8
  split_ifs with h0 h1 h2 h3 h4 h5 h6 h7 hE
  case neg =>
    have unlisted := mem_unlisted_of_ne (fieldN w) h0 h1 h2 h3 h4 h5 h6 h7 hE
    exact .unknown (by simpa [isUnknownWord, hop] using unlisted)
  all_goals exact ⟨rfl, xyn_of_op hop ‹_›⟩

theorem denotes_decodeSwitchF (hop : fieldOp w = 0xF) : Denotes w (decodeSwitchF w) := by
  unfold decodeSwitchF
  split_ifs
  case neg => exact .unknown (by simp_all [isUnknownWord])
  all_goals exact ⟨rfl, xnn_of_op hop ‹_›⟩

/-- Along the branches of the switch: the word is its primary nibble and the fields that the branch takes from it. -/
theorem denotes_decodeSwitch (w : Word) : Denotes w (decodeSwitch w) := by
  refine .ite (fun h => ?_) fun _ => ?_
  · exact .ite (fun hw => ⟨rfl, hw.symm⟩) fun hcls => .ite (fun hw => ⟨rfl, hw.symm⟩) fun hret =>
      .unknown (by simpa [isUnknownWord, h] using ⟨hcls, hret⟩)
  refine .ite (fun h => ⟨rfl, nnn_of_op h⟩) fun _ => ?_
  refine .ite (fun h => ⟨rfl, nnn_of_op h⟩) fun _ => ?_
  refine .ite (fun h => ⟨rfl, xnn_of_op h rfl⟩) fun _ => ?_
  refine .ite (fun h => ⟨rfl, xnn_of_op h rfl⟩) fun _ => ?_
  refine .ite (fun h => ?_) fun _ => ?_
  · exact .ite (fun hn => ⟨rfl, xyn_of_op h hn⟩) fun hn => .unknown (by simpa [isUnknownWord, h] using hn)
  refine .ite (fun h => ⟨rfl, xnn_of_op h rfl⟩) fun _ => ?_
  refine .ite (fun h => ⟨rfl, xnn_of_op h rfl⟩) fun _ => ?_
  refine .ite (fun h => denotes_decodeSwitch8 h) fun _ => ?_
  refine .ite (fun h => ?_) fun _ => ?_
  · exact .ite (fun hn => ⟨rfl, xyn_of_op h hn⟩) fun hn => .unknown (by simpa [isUnknownWord, h] using hn)
  refine .ite (fun h => ⟨rfl, nnn_of_op h⟩) fun _ => ?_
  refine .ite (fun h => ⟨rfl, nnn_of_op h⟩) fun _ => ?_
  refine .ite (fun h => ⟨rfl, xnn_of_op h rfl⟩) fun _ => ?_
  refine .ite (fun h => ⟨rfl, xyn_of_op h rfl⟩) fun _ => ?_
  refine .ite (fun h => ?_) fun _ => ?_
  · exact .ite (fun hnn => ⟨rfl, xnn_of_op h hnn⟩) fun h9E => .ite (fun hnn => ⟨rfl, xnn_of_op h hnn⟩) fun hA1 =>
      .unknown (by simpa [isUnknownWord, h] using ⟨h9E, hA1⟩)
  -- the nibbles 0 to E are excluded by the branches before
  have last : fieldOp w = 0xF := by bv_omega
  exact denotes_decodeSwitchF last

end

theorem denotes_decodeWord (w : Word) : Denotes w (decodeWord w) := switchAgreesWithTable w ▸ denotes_decodeSwitch w

theorem encode_decodeWord (w : Word) : encode (decodeWord w) = w := (denotes_decodeWord w).2

/-- A word that decodes to an unknown word decodes to itself. -/
theorem eq_of_decodeWord_eq_unknown {v w : Word} (h : decodeWord w = .unknown v) : v = w :=
  (congrArg encode h).symm.trans (encode_decodeWord w)

/-! ### The instructions that carry no word -/

/-- The word of an instruction that carries no word is not in the table of R97. -/
theorem isUnknownWord_encode {i : Instr} (hi : ∀ w, i ≠ .unknown w) : isUnknownWord (encode i) = false := by
  cases i with
  | unknown w => exact absurd rfl (hi w)
  | cls | ret => decide
  | _ => simp [encode, isUnknownWord]

theorem decodeSwitch_encode {i : Instr} (hi : ∀ w, i ≠ .unknown w) : decodeSwitch (encode i) = i := by
  cases i with
  | unknown w => exact absurd rfl (hi w)
  | cls | ret => decide
  | _ => simp [encode, decodeSwitch, decodeSwitch8, decodeSwitchF]

theorem decodeWord_of_isUnknownWord {w : Word} (h : isUnknownWord w = true) : decodeWord w = .unknown w := by
  by_cases known : ∀ v, decodeWord w ≠ .unknown v
  · have listed := isUnknownWord_encode known
    rw [encode_decodeWord, h] at listed
    cases listed
  · obtain ⟨v, hv⟩ := not_forall_not.mp known
    rw [hv, eq_of_decodeWord_eq_unknown hv]

theorem decodeWord_encode {i : Instr} (hi : WellFormed i) : decodeWord (encode i) = i := by
  by_cases known : ∀ w, i ≠ .unknown w
  · rw [← switchAgreesWithTable, decodeSwitch_encode known]
  · obtain ⟨w, rfl⟩ := not_forall_not.mp known
    exact decodeWord_of_isUnknownWord hi

/-! ### Two rows for one word (30_encoding.md R95) -/

/-- Two rows can be selected by one word when their matches agree under both masks. -/
abbrev OpcodeRow.Compatible (r q : OpcodeRow) : Prop := r.pattern &&& q.mask = q.pattern &&& r.mask

theorem OpcodeRow.compatible_of_selects {r q : OpcodeRow} {w : Word} (hr : r.selects w = true)
    (hq : q.selects w = true) : r.Compatible q := by
  rw [selects, beq_iff_eq] at hr hq
  rw [Compatible, ← hr, ← hq]
  ac_rfl

/-- Of two rows in the table's order that one word can select, the first is a fixed word and the second is SYS. -/
theorem opcodeRows_pairwise : opcodeRows.Pairwise fun r q => r.Compatible q →
    r.mask = 0xFFFF ∧ (r.pattern = 0x00E0 ∧ r.mnemonic = "CLS" ∨ r.pattern = 0x00EE ∧ r.mnemonic = "RET") ∧
      q.mnemonic = "SYS" := by decide

/-! ### The obligations -/

/-- Settles O55: the two bytes are the word again, and the word decodes to its instruction. -/
theorem decodeOfEncodeIsTheInstruction : Obligations.DecodeOfEncodeIsTheInstruction := by
  intro i rest hi
  rw [encodeBytes, decode_bytesOfWord_append, decodeWord_encode hi]

/-- Settles O56: what the branches of the switch say, read in the table. -/
theorem encodeOfDecodeIsTheWord : Obligations.EncodeOfDecodeIsTheWord := denotes_decodeWord

/-- Settles O58: an unknown word is well-formed only if it is listed, and no other instruction has a listed word. -/
theorem unknownWordsAreTheListedOnes : Obligations.UnknownWordsAreTheListedOnes := by
  refine fun w => ⟨fun h => ?_, decodeWord_of_isUnknownWord⟩
  obtain ⟨wf, -⟩ := denotes_decodeWord w
  rwa [h] at wf

/-- Settles O59: the pairs of rows whose matches agree, and the one word that a fixed row selects. -/
theorem rowsOverlapOnlyInSys : Obligations.RowsOverlapOnlyInSys := by
  intro w j k r q hj hk hjk hr hq
  obtain ⟨jlt, rfl⟩ := List.getElem?_eq_some_iff.mp hj
  obtain ⟨klt, rfl⟩ := List.getElem?_eq_some_iff.mp hk
  obtain ⟨fixed, names, sys⟩ := List.pairwise_iff_getElem.mp opcodeRows_pairwise j k jlt klt hjk
    (OpcodeRow.compatible_of_selects hr hq)
  rw [(OpcodeRow.selects_iff_eq fixed).mp hr]
  exact ⟨names, sys⟩

/-- Settles O60: each word is decoded by the table. -/
theorem sampleWordsDecode : Obligations.SampleWordsDecode := by
  unfold Obligations.SampleWordsDecode
  decide

end Sys2Proof
end

section
/-! PROOFS of the family other, execution: which parts of the state an instruction writes, which fatal error it raises,
and what it does not read (spec/10_state.md sections 1 to 9, spec/60_exceptions.md sections 1 and 3). -/

namespace Sys2Proof.Machine

/-! ### The parts that an instruction writes -/

/-- FX55 and FX65 move the index register in legacy mode only (43_memory_index.md R205, R206). -/
def indexParts : Mode → List Part
  | .legacy => [.index]
  | .chip48 => []

@[simp] theorem mem_indexParts {p : Part} {m : Mode} : p ∈ indexParts m ↔ p = .index ∧ m = .legacy := by
  cases m <;> simp [indexParts]

/-- The parts of the state but the program counter that an instruction writes when it completes. -/
def writtenParts (mode : Mode) : Instr → List Part
  | .unknown _ | .jp _ | .jpV0 _ | .seImm _ _ | .sneImm _ _ | .seReg _ _ | .sneReg _ _ | .skp _ | .sknp _ => []
  | .cls => [.display]
  | .ret | .call _ => [.stack]
  | .ldImm _ _ | .addImm _ _ | .ldReg _ _ | .or _ _ | .and _ _ | .xor _ _ | .ldVxDt _ => [.registers]
  | .addReg _ _ | .sub _ _ | .shr _ _ | .subn _ _ | .shl _ _ => [.registers]
  | .rnd _ _ => [.registers, .draws]
  | .drw _ _ _ => [.registers, .display]
  | .ldVxK _ => [.engine]
  | .ldDtVx _ | .ldStVx _ => [.timers]
  | .ldI _ | .addIVx _ | .ldFVx _ => [.index]
  | .ldBVx _ => [.memory]
  | .storeRegs _ => .memory :: indexParts mode
  | .loadRegs _ => .registers :: indexParts mode

/-- The fatal error that an instruction raises, if any (60_exceptions.md R251, R252). -/
def faultOf (s : State) : Instr → Option FatalError
  | .call _ => if s.sp.val < 16 then none else some .stackOverflow
  | .ret => if 0 < s.sp.val then none else some .stackUnderflow
  | .drw _ _ n => checkRead s.baseAddr n.toNat
  | .loadRegs x => checkRead s.baseAddr (x.toNat + 1)
  | .ldBVx _ => checkWrite s.baseAddr 3
  | .storeRegs x => checkWrite s.baseAddr (x.toNat + 1)
  | _ => none

section
variable (s : State)

/-- The advance changes no part but the program counter. -/
theorem Unchanged.advance {s t : State} {ps : List Part} (h : Unchanged s t ps) : Unchanged s t.advance ps :=
  List.append_nil ps ▸ h.trans (unchanged_advance t)

theorem Unchanged.refl : Unchanged s s [] := by
  apply Unchanged.intro <;> simp [SameOutside]

theorem sameOutside_halt (e : FatalError) : SameOutside s (s.halt e) := ⟨rfl, rfl, rfl, rfl, rfl⟩

theorem unchanged_countDraw : Unchanged s s.countDraw [.draws] := by
  apply Unchanged.intro <;> simp [SameOutside]

theorem State.indexAfter_of_chip48 {s : State} (h : s.mode = .chip48) (x : Nibble) : s.indexAfter x = s.I := by
  simp only [State.indexAfter, h]

theorem unchanged_setI_indexAfter (x : Nibble) : Unchanged s (s.setI (s.indexAfter x)) (indexParts s.mode) := by
  cases h : s.mode with
  | legacy => exact unchanged_setI s _
  | chip48 => rw [State.indexAfter_of_chip48 h]; exact Unchanged.refl s

end

section
variable {i : Instr} {s t u : State} {p : Part}

theorem exec_ret_of_held (held : 0 < s.sp.val) :
    exec .ret s = .next (s.drop.jump (s.stackAt (s.topIndex held))) := dif_pos held

/-- The popped entry stays (10_state.md R27). -/
theorem stackAt_exec_ret (h : exec .ret s = .next t) (k : Fin 16) : t.stackAt k = s.stackAt k := by
  by_cases held : 0 < s.sp.val
  · cases (exec_ret_of_held held).symm.trans h; rfl
  · cases (exec_ret_of_empty (Nat.eq_zero_of_not_pos held)).symm.trans h; rfl

/-- An instruction with one check raises the check's fault, or completes within the frame of its effect. -/
theorem guarded_frame {c : Option FatalError} {ps : List Part} (h : guarded c s u = .next t)
    (frame : Unchanged s u ps) :
    (∃ e, c = some e ∧ t = s.halt e) ∨ (c = none ∧ Unchanged s t ps) := by
  rcases guarded_cases c s u with ⟨e, hc, g⟩ | ⟨hc, g⟩ <;> cases g.symm.trans h
  · exact .inl ⟨e, hc, rfl⟩
  · exact .inr ⟨hc, frame⟩

/-- An instruction raises its fatal error, or completes and writes its parts only. -/
theorem exec_frame (h : exec i s = .next t) :
    (∃ e, faultOf s i = some e ∧ t = s.halt e) ∨ (faultOf s i = none ∧ Unchanged s t (writtenParts s.mode i)) := by
  cases i with
  | call nnn =>
    by_cases room : s.sp.val < 16
    · cases (exec_call_of_lt nnn room).symm.trans h
      exact .inr ⟨if_pos room, unchanged_push_jump s _ _ room⟩
    · cases (exec_call_of_full nnn (by omega)).symm.trans h
      exact .inl ⟨_, if_neg room, rfl⟩
  | ret =>
    by_cases held : 0 < s.sp.val
    · cases (exec_ret_of_held held).symm.trans h
      exact .inr ⟨if_pos held, unchanged_drop_jump s _⟩
    · cases (exec_ret_of_empty (Nat.eq_zero_of_not_pos held)).symm.trans h
      exact .inl ⟨_, if_neg held, rfl⟩
  | drw => exact guarded_frame h (unchanged_setDisp_setV_advance s _ _ _)
  | ldBVx => exact guarded_frame h (unchanged_setMem_advance s _)
  | storeRegs x =>
    exact guarded_frame h ((unchanged_setMem s _).trans (unchanged_setI_indexAfter _ x)).advance
  | loadRegs x =>
    exact guarded_frame h ((unchanged_setRegs s _).trans (unchanged_setI_indexAfter _ x)).advance
  | cls => cases h; exact .inr ⟨rfl, unchanged_setDisp_advance s _⟩
  | unknown => cases h; exact .inr ⟨rfl, unchanged_advance s⟩
  | jp | jpV0 => cases h; exact .inr ⟨rfl, unchanged_jump s _⟩
  | seImm | sneImm | seReg | sneReg | skp | sknp => cases h; exact .inr ⟨rfl, unchanged_skipIf s _⟩
  | ldImm | addImm | ldReg | or | and | xor | ldVxDt => cases h; exact .inr ⟨rfl, unchanged_setV_advance s _ _⟩
  | addReg | sub | shr | subn | shl => cases h; exact .inr ⟨rfl, unchanged_setResultAndFlag_advance s _ _ _⟩
  | rnd => cases h; exact .inr ⟨rfl, (unchanged_setV_advance s _ _).trans (unchanged_countDraw _)⟩
  | ldI | addIVx | ldFVx => cases h; exact .inr ⟨rfl, unchanged_setI_advance s _⟩
  | ldDtVx => cases h; exact .inr ⟨rfl, unchanged_setDt_advance s _⟩
  | ldStVx => cases h; exact .inr ⟨rfl, unchanged_setSt_advance s _⟩
  | ldVxK x => cases h; exact .inr ⟨rfl, unchanged_enterWait s x⟩

/-- No instruction writes the latch, the mode flag, the configuration or the Timer Clock's time. -/
theorem exec_sameOutside (h : exec i s = .next t) : SameOutside s t := by
  rcases exec_frame h with ⟨e, -, rfl⟩ | ⟨-, outside, -⟩
  · exact sameOutside_halt s e
  · exact outside

/-- A part that an instruction does not write is the same after it; a fatal error changes the engine only. -/
theorem same_of_not_mem_writtenParts (h : exec i s = .next t) (hp : p ∉ writtenParts s.mode i) (he : p ≠ .engine) :
    p.same s t := by
  rcases exec_frame h with ⟨e, -, rfl⟩ | ⟨-, -, same⟩
  · obtain ⟨-, -, -, -, -, same⟩ := haltedWith_halt s e
    exact same p (by simpa using he)
  · exact same p hp

/-- A part that changed is one that the instruction writes. -/
theorem mem_writtenParts_of_changed (h : exec i s = .next t) (he : p ≠ .engine) (changed : ¬ p.same s t) :
    p ∈ writtenParts s.mode i :=
  not_not.mp fun hp => changed (same_of_not_mem_writtenParts h hp he)

/-! ### Which instructions write a part -/

theorem display_mem_writtenParts {m : Mode} (h : .display ∈ writtenParts m i) : i = .cls ∨ ∃ x y n, i = .drw x y n := by
  cases i with
  | cls => exact .inl rfl
  | drw x y n => exact .inr ⟨x, y, n, rfl⟩
  | _ => simp [writtenParts] at h

theorem index_mem_writtenParts {m : Mode} (h : .index ∈ writtenParts m i) :
    (∃ nnn, i = .ldI nnn) ∨ (∃ x, i = .addIVx x) ∨ (∃ x, i = .ldFVx x) ∨
      (m = .legacy ∧ ((∃ x, i = .storeRegs x) ∨ ∃ x, i = .loadRegs x)) := by
  cases i with
  | ldI nnn => exact .inl ⟨nnn, rfl⟩
  | addIVx x => exact .inr (.inl ⟨x, rfl⟩)
  | ldFVx x => exact .inr (.inr (.inl ⟨x, rfl⟩))
  | storeRegs x => exact .inr (.inr (.inr ⟨by simpa [writtenParts] using h, .inl ⟨x, rfl⟩⟩))
  | loadRegs x => exact .inr (.inr (.inr ⟨by simpa [writtenParts] using h, .inr ⟨x, rfl⟩⟩))
  | _ => simp [writtenParts] at h

theorem memory_mem_writtenParts {m : Mode} (h : .memory ∈ writtenParts m i) :
    (∃ x, i = .ldBVx x) ∨ ∃ x, i = .storeRegs x := by
  cases i with
  | ldBVx x => exact .inl ⟨x, rfl⟩
  | storeRegs x => exact .inr ⟨x, rfl⟩
  | _ => simp [writtenParts] at h

theorem stack_mem_writtenParts {m : Mode} (h : .stack ∈ writtenParts m i) : i = .ret ∨ ∃ nnn, i = .call nnn := by
  cases i with
  | ret => exact .inl rfl
  | call nnn => exact .inr ⟨nnn, rfl⟩
  | _ => simp [writtenParts] at h

theorem timers_mem_writtenParts {m : Mode} (h : .timers ∈ writtenParts m i) :
    (∃ x, i = .ldDtVx x) ∨ ∃ x, i = .ldStVx x := by
  cases i with
  | ldDtVx x => exact .inl ⟨x, rfl⟩
  | ldStVx x => exact .inr ⟨x, rfl⟩
  | _ => simp [writtenParts] at h

theorem engine_mem_writtenParts {m : Mode} (h : .engine ∈ writtenParts m i) : ∃ x, i = .ldVxK x := by
  cases i with
  | ldVxK x => exact ⟨x, rfl⟩
  | _ => simp [writtenParts] at h

theorem draws_mem_writtenParts {m : Mode} (h : .draws ∈ writtenParts m i) : ∃ x nn, i = .rnd x nn := by
  cases i with
  | rnd x nn => exact ⟨x, nn, rfl⟩
  | _ => simp [writtenParts] at h

/-! ### Which register an instruction writes -/

theorem eq_of_setV_changed {x y : Nibble} {v : Byte} (h : (s.setV x v).getV y ≠ s.getV y) : x = y :=
  not_not.mp fun hne => h (State.getV_setV_ne s v (Ne.symm hne))

theorem eq_of_setResultAndFlag_changed {x y : Nibble} {r g : Byte}
    (h : (s.setResultAndFlag x r g).getV y ≠ s.getV y) : x = y ∨ y = regF := by
  by_contra! other
  exact h (State.getV_setResultAndFlag_other s r g (Ne.symm other.1) other.2)

/-- A register that changed is the destination, VF of a flag instruction, or one of those that FX65 loads. -/
theorem register_of_changed (h : exec i s = .next t) {y : Nibble} (changed : t.getV y ≠ s.getV y) :
    destination i = some y ∨ (writesFlag i = true ∧ y = 0xF) ∨ ∃ x, i = .loadRegs x ∧ y.toNat ≤ x.toNat := by
  cases i with
  | ldImm | addImm | ldReg | or | and | xor | ldVxDt | rnd =>
    cases h
    exact .inl (congrArg some (eq_of_setV_changed changed))
  | addReg | sub | shr | subn | shl =>
    cases h
    exact (eq_of_setResultAndFlag_changed changed).imp (congrArg some) fun flag => .inl ⟨rfl, flag⟩
  | drw x y' n =>
    rcases guarded_cases (checkRead s.baseAddr n.toNat) s _ with ⟨e, -, g⟩ | ⟨-, g⟩ <;> cases g.symm.trans h
    · exact absurd rfl changed
    · exact .inr (.inl ⟨rfl, (eq_of_setV_changed changed).symm⟩)
  | loadRegs x =>
    rcases guarded_cases (checkRead s.baseAddr (x.toNat + 1)) s _ with ⟨e, -, g⟩ | ⟨-, g⟩ <;> cases g.symm.trans h
    · exact absurd rfl changed
    · refine .inr (.inr ⟨x, rfl, not_not.mp fun above => changed ?_⟩)
      exact (State.getV_setRegisters_readBytes s x y s.baseAddr).trans (if_neg above)
  | _ => exact absurd (same_of_not_mem_writtenParts (p := .registers) h (by simp [writtenParts]) (by decide) y) changed

/-! ### Fatal errors -/

theorem canFault_of_faultOf {e : FatalError} (h : faultOf s i = some e) : canFault i = true := by
  cases i with
  | call | ret | drw | ldBVx | storeRegs | loadRegs => rfl
  | _ => cases h

/-- The engine after an instruction is as before, waits for the key of FX0A, or halts with the instruction's error. -/
theorem engine_cases (h : exec i s = .next t) :
    Part.engine.same s t ∨ (∃ x, i = .ldVxK x ∧ t = s.enterWait x) ∨ (∃ e, faultOf s i = some e ∧ t = s.halt e) := by
  rcases exec_frame h with halts | ⟨-, -, same⟩
  · exact .inr (.inr halts)
  · by_cases written : .engine ∈ writtenParts s.mode i
    · obtain ⟨x, rfl⟩ := engine_mem_writtenParts written
      cases h
      exact .inr (.inl ⟨x, rfl, rfl⟩)
    · exact .inl (same .engine written)

theorem checkRead_eq_some {base len : Nat} {e : FatalError} (h : checkRead base len = some e) :
    0 < len ∧ base + len - 1 > 0xFFF ∧ e = .memoryFault .read (max base 0x1000) := by
  rw [checkRead] at h
  split at h
  · next fails =>
    obtain ⟨nonempty, above⟩ := fails
    cases h
    exact ⟨nonempty, above, rfl⟩
  · cases h

theorem checkWrite_eq_some {base len : Nat} {e : FatalError} (h : checkWrite base len = some e) :
    (base < 0x200 ∧ e = .memoryFault .writeProtected base) ∨
    (0x200 ≤ base ∧ base + len - 1 > 0xFFF ∧ e = .memoryFault .write (max base 0x1000)) := by
  rw [checkWrite] at h
  split at h
  · next low => cases h; exact .inl ⟨low, rfl⟩
  · next low =>
    split at h
    · next high => cases h; exact .inr ⟨Nat.not_lt.mp low, high, rfl⟩
    · cases h

/-- Settles O39: the error is the instruction's own, and each check says on which operands it fails. -/
theorem errorsHaveTheirCauses : Obligations.ErrorsHaveTheirCauses := by
  intro i s t e hs h ht he
  have own : faultOf s i = some e := by
    rcases engine_cases h with ⟨same, -⟩ | ⟨x, -, rfl⟩ | ⟨e', fault, rfl⟩
    · exact absurd (same.symm.trans ht) hs
    · cases ht
    · exact fault.trans he
  cases i with
  | call nnn =>
    have ⟨full, err⟩ := Option.ite_none_left_eq_some.mp own
    cases err
    exact .inl ⟨nnn, rfl, by omega, rfl⟩
  | ret =>
    have ⟨empty, err⟩ := Option.ite_none_left_eq_some.mp own
    cases err
    exact .inr (.inl ⟨rfl, Nat.eq_zero_of_not_pos empty, rfl⟩)
  | drw x y n =>
    obtain ⟨rows, above, err⟩ := checkRead_eq_some own
    exact .inr (.inr (.inl ⟨x, y, n, rfl, by bv_omega, above, err⟩))
  | loadRegs x =>
    obtain ⟨-, above, err⟩ := checkRead_eq_some own
    exact .inr (.inr (.inr (.inl ⟨x, rfl, above, err⟩)))
  | ldBVx x =>
    rcases checkWrite_eq_some own with ⟨low, err⟩ | ⟨program, above, err⟩
    · exact .inr (.inr (.inr (.inr (.inl ⟨.inl ⟨x, rfl⟩, low, err⟩))))
    · exact .inr (.inr (.inr (.inr (.inr ⟨.inl ⟨x, rfl, above⟩, program, err⟩))))
  | storeRegs x =>
    rcases checkWrite_eq_some own with ⟨low, err⟩ | ⟨program, above, err⟩
    · exact .inr (.inr (.inr (.inr (.inl ⟨.inr ⟨x, rfl⟩, low, err⟩))))
    · exact .inr (.inr (.inr (.inr (.inr ⟨.inr ⟨x, rfl, above⟩, program, err⟩))))
  | _ => cases own

/-! ### What each part's change says of the instruction -/

/-- Settles O49: each part that changed is written, and the table says by which instructions. -/
theorem instructionsWriteOnlyTheirParts : Obligations.InstructionsWriteOnlyTheirParts := by
  intro i s t h
  have written {p : Part} := mem_writtenParts_of_changed (p := p) h
  have engine := engine_cases h
  refine ⟨exec_sameOutside h, fun y => register_of_changed h,
    fun hd => display_mem_writtenParts (written (by decide) hd),
    fun hi => index_mem_writtenParts (written (by decide) hi),
    fun hm => memory_mem_writtenParts (written (by decide) hm),
    fun hsp => stack_mem_writtenParts (written (p := .stack) (by decide) fun same => hsp same.1),
    fun ⟨k, hk⟩ => ?_, fun hdt => ?_, fun hst => ?_, fun he => ?_, fun he => ?_, fun hw => ?_,
    fun hd => draws_mem_writtenParts (written (by decide) hd)⟩
  · rcases stack_mem_writtenParts (written (p := .stack) (by decide) fun same => hk (same.2 k)) with rfl | call
    · exact absurd (stackAt_exec_ret h k) hk
    · exact call
  · rcases timers_mem_writtenParts (written (p := .timers) (by decide) fun same => hdt same.1) with delay | ⟨x, rfl⟩
    · exact delay
    · cases h; exact absurd rfl hdt
  · rcases timers_mem_writtenParts (written (p := .timers) (by decide) fun same => hst same.2) with ⟨x, rfl⟩ | sound
    · cases h; exact absurd rfl hst
    · exact sound
  · rcases engine with ⟨same, -⟩ | ⟨x, hi, rfl⟩ | ⟨e, fault, rfl⟩
    · exact absurd same he
    · exact .inl ⟨rfl, x, hi⟩
    · exact .inr ⟨rfl, canFault_of_faultOf fault⟩
  · rcases engine with ⟨-, -, same⟩ | ⟨x, -, rfl⟩ | ⟨e, fault, rfl⟩
    · exact absurd same he
    · exact absurd rfl he
    · exact ⟨Option.some_ne_none e, rfl, canFault_of_faultOf fault⟩
  · rcases engine with ⟨-, same, -⟩ | ⟨x, hi, -⟩ | ⟨e, -, rfl⟩
    · exact absurd same hw
    · exact ⟨x, hi⟩
    · exact absurd rfl hw

/-- Settles O51: of the registers that FX65 loads, VF is only the last. -/
theorem flagHasNoOtherWriters : Obligations.FlagHasNoOtherWriters := by
  intro i s t h changed
  rcases register_of_changed h changed with named | ⟨flag, -⟩ | ⟨x, rfl, upTo⟩
  · exact .inr named
  · exact .inl flag
  · exact .inr (congrArg some (by bv_omega))

end

/-! ### What an instruction does not read -/

/-- A state with another mode flag and another Input Latch. -/
def State.withModeKeys (s : State) (m : Mode) (k : Word) : State := { s with mode := m, keys := k }

section
variable {i : Instr} {s t u : State} {m : Mode} {k : Word}

/-- A check that passes or fails alike under another mode and latch. -/
theorem guarded_withModeKeys {c : Option FatalError} (h : guarded c s u = .next t) :
    guarded c (s.withModeKeys m k) (u.withModeKeys m k) = .next (t.withModeKeys m k) := by
  rcases guarded_cases c s u with ⟨e, rfl, g⟩ | ⟨rfl, g⟩ <;> cases g.symm.trans h <;> rfl

theorem registerBytes_withModeKeys (j n : Nat) : (s.withModeKeys m k).registerBytes j n = s.registerBytes j n := by
  induction n generalizing j with
  | zero => rfl
  | succ n ih => exact congrArg (s.getV (BitVec.ofNat 4 j) :: ·) (ih (j + 1))

/-- An instruction does the same under another mode and another latch, as far as it uses neither. -/
theorem exec_withModeKeys (h : exec i s = .next t) (hm : usesMode i = false ∨ m = s.mode)
    (hk : readsKeys i = false ∨ k = s.keys) :
    exec i (s.withModeKeys m k) = .next (t.withModeKeys m k) := by
  cases i with
  | shr | shl =>
    obtain rfl := hm.resolve_left (by simp [usesMode])
    cases h; rfl
  | storeRegs x =>
    obtain rfl := hm.resolve_left (by simp [usesMode])
    rw [exec_storeRegs, registerBytes_withModeKeys]
    exact guarded_withModeKeys h
  | loadRegs =>
    obtain rfl := hm.resolve_left (by simp [usesMode])
    exact guarded_withModeKeys h
  | skp | sknp =>
    obtain rfl := hk.resolve_left (by simp [readsKeys])
    cases h; rfl
  | drw | ldBVx => exact guarded_withModeKeys h
  | call nnn =>
    by_cases room : s.sp.val < 16
    · cases (exec_call_of_lt nnn room).symm.trans h
      exact exec_call_of_lt (s := s.withModeKeys m k) nnn room
    · have full : s.sp.val = 16 := by omega
      cases (exec_call_of_full nnn full).symm.trans h
      exact exec_call_of_full (s := s.withModeKeys m k) nnn full
  | ret =>
    by_cases held : 0 < s.sp.val
    · cases (exec_ret_of_held held).symm.trans h
      exact exec_ret_of_held (s := s.withModeKeys m k) held
    · have empty : s.sp.val = 0 := Nat.eq_zero_of_not_pos held
      cases (exec_ret_of_empty empty).symm.trans h
      exact exec_ret_of_empty (s := s.withModeKeys m k) empty
  | _ => cases h; rfl

theorem withModeKeys_of_keys (h : t.keys = s.keys) : t.withModeKeys m s.keys = { t with mode := m } :=
  h ▸ rfl

theorem withModeKeys_of_mode (h : t.mode = s.mode) : t.withModeKeys s.mode k = { t with keys := k } :=
  h ▸ rfl

end

/-- Settles O52: what does not use the mode is the same under another, and for each of the four a state shows the
difference: V1 is not V2, and I is in the program area. -/
theorem modeAffectsExactlyFourInstructions : Obligations.ModeAffectsExactlyFourInstructions := by
  refine ⟨fun i s t m hi h => ?_, ⟨State.reset.setV 1 2, _, _, rfl, rfl, by decide⟩,
    ⟨State.reset.setV 1 2, _, _, rfl, rfl, by decide⟩,
    ⟨State.reset.setI 0x200, _, _, rfl, rfl, by decide⟩, ⟨State.reset.setI 0x200, _, _, rfl, rfl, by decide⟩⟩
  obtain ⟨keys, -⟩ := exec_sameOutside h
  rw [← withModeKeys_of_keys (s := s) rfl, ← withModeKeys_of_keys keys]
  exact exec_withModeKeys h (.inl hi) (.inr rfl)

/-- The execution of an instruction that is not a key test does not depend on the latch. -/
theorem exec_with_keys {i : Instr} {s t : State} (k : Word) (hi : readsKeys i = false) (h : exec i s = .next t) :
    exec i { s with keys := k } = .next { t with keys := k } := by
  obtain ⟨-, mode, -⟩ := exec_sameOutside h
  rw [← withModeKeys_of_mode (s := s) rfl, ← withModeKeys_of_mode mode]
  exact exec_withModeKeys h (.inr rfl) (.inl hi)

end Sys2Proof.Machine
end

section
/-! PROOFS of the family other, steps and the invariant: what a `Step` and the events made of `Step`s can be, and what
every step of the machine keeps (spec/10_state.md sections 2 and 8, spec/20_memory.md sections 2 and 3,
spec/40_execution_cycle.md R120 to R132). -/

namespace Sys2Proof.Machine

/-! ### A `Step` and the events that are made of `Step`s (40_execution_cycle.md R120 to R132) -/

section
variable {s t : State} {w : Word} {e : FatalError} {n : Nat}

theorem stepEvent_of_fetch (hr : s.engine = .running) (hw : s.fetch = .ok w) : stepEvent s = exec (decodeWord w) s := by
  simp only [stepEvent, stepRunning, hr, hw]

theorem stepEvent_of_fetch_error (hr : s.engine = .running) (hf : s.fetch = .error e) :
    stepEvent s = .next (s.halt e) := by
  simp only [stepEvent, stepRunning, hr, hf, raise]

/-- Every `Step` finishes. -/
theorem stepEvent_completes (s : State) : ∃ t, stepEvent s = .next t := by
  rcases stepEvent_cases s with ⟨-, e, -, h⟩ | ⟨-, w, -, h⟩ | ⟨-, h⟩ | ⟨-, h⟩
  · exact ⟨_, h⟩
  · exact h ▸ exec_completes _ s
  · exact ⟨_, h⟩
  · exact ⟨_, h⟩

theorem subSteps_succ_of_halted (h : stepEvent s = .next t) (ht : t.engine = .halted) :
    subSteps (n + 1) s = .next t := by
  simp only [subSteps, h, ht, if_true]

theorem subSteps_succ_of_ne (h : stepEvent s = .next t) (ht : t.engine ≠ .halted) :
    subSteps (n + 1) s = subSteps n t := by
  simp only [subSteps, h, ht, if_false]

theorem subStepReports_succ_of_halted (h : stepEvent s = .next t) (ht : t.engine = .halted) :
    subStepReports (n + 1) s = [stepReport s] := by
  simp only [subStepReports, h, ht, if_true]

theorem subStepReports_succ_of_ne (h : stepEvent s = .next t) (ht : t.engine ≠ .halted) :
    subStepReports (n + 1) s = stepReport s :: subStepReports n t := by
  simp only [subStepReports, h, ht, if_false]

/-- What every `Step` keeps, sub-steps keep; they end in `Halted`, or pause an engine that is not halted (R132). -/
theorem subSteps_ends {P : State → Prop} (keeps : ∀ s t, P s → s.engine ≠ .halted → stepEvent s = .next t → P t)
    (hs : P s) (hne : s.engine ≠ .halted) (h : subSteps n s = .next t) :
    (t.engine = .halted ∧ P t) ∨ ∃ u, P u ∧ u.engine ≠ .halted ∧ t = u.setEngine .paused := by
  induction n generalizing s with
  | zero => cases h; exact .inr ⟨s, hs, hne, rfl⟩
  | succ n ih =>
    obtain ⟨u, hu⟩ := stepEvent_completes s
    by_cases halts : u.engine = .halted
    · cases (subSteps_succ_of_halted hu halts).symm.trans h
      exact .inl ⟨halts, keeps s t hs hne hu⟩
    · exact ih (keeps s u hs hne hu) halts ((subSteps_succ_of_ne hu halts).symm.trans h)

theorem subSteps_completes (n : Nat) (s : State) : ∃ t, subSteps n s = .next t := by
  induction n generalizing s with
  | zero => exact ⟨_, rfl⟩
  | succ n ih =>
    obtain ⟨u, hu⟩ := stepEvent_completes s
    by_cases halts : u.engine = .halted
    · exact ⟨u, subSteps_succ_of_halted hu halts⟩
    · exact subSteps_succ_of_ne hu halts ▸ ih u

theorem singleStepEvent_of_paused (h : s.engine = .paused) :
    singleStepEvent s = subSteps 4 (s.setEngine .running) := by
  simp only [singleStepEvent, h, Config.singleStepCount]

theorem singleStepReports_of_paused (h : s.engine = .paused) :
    singleStepReports s = subStepReports 4 (s.setEngine .running) := by
  simp only [singleStepReports, h, Config.singleStepCount]

theorem singleStepReports_of_ne (h : s.engine ≠ .paused) :
    singleStepReports s = [⟨.rejected, none, none, none, none⟩] := by
  cases he : s.engine with
  | paused => exact absurd he h
  | running | waitingForKey | halted => simp only [singleStepReports, he]

/-- A `SingleStep` changes nothing, or it is the sub-steps of an engine set running. -/
theorem singleStepEvent_cases (s : State) :
    (s.engine ≠ .paused ∧ singleStepEvent s = .next s) ∨
    (s.engine = .paused ∧ singleStepEvent s = subSteps 4 (s.setEngine .running)) := by
  by_cases h : s.engine = .paused
  · exact .inr ⟨h, singleStepEvent_of_paused h⟩
  · exact .inl ⟨h, singleStepEvent_of_ne h⟩

theorem pauseEvent_cases (s : State) :
    (s.engine ≠ .running ∧ pauseEvent s = s) ∨ (s.engine = .running ∧ pauseEvent s = s.setEngine .paused) := by
  by_cases h : s.engine = .running
  · exact .inr ⟨h, pauseEvent_of_running h⟩
  · exact .inl ⟨h, pauseEvent_of_ne h⟩

theorem resumeEvent_cases (s : State) :
    (s.engine ≠ .paused ∧ resumeEvent s = s) ∨ (s.engine = .paused ∧ resumeEvent s = s.setEngine .running) := by
  by_cases h : s.engine = .paused
  · exact .inr ⟨h, resumeEvent_of_paused h⟩
  · exact .inl ⟨h, resumeEvent_of_ne h⟩

/-- `last <- now` (60_exceptions.md R266). -/
def State.setLast (s : State) (now : Rat) : State := { s with last := now }

theorem tickIfDueEvent_of_due {now : Rat} (h : now - s.last ≥ 1 / 60) :
    tickIfDueEvent now s = (tickEvent s).setLast now := if_pos h

theorem tickIfDueEvent_of_not_due {now : Rat} (h : now - s.last < 1 / 60) : tickIfDueEvent now s = s :=
  if_neg (not_le.mpr h)

end

/-! ### The invariant (10_state.md sections 2 and 8, 20_memory.md sections 2 and 3) -/

section
variable {i : Instr} {s t : State}

/-- The invariant speaks of memory, the error latch and the engine alone. -/
theorem State.Inv.of_mem_eq (hs : s.Inv) (hm : t.mem = s.mem) (latch : t.latchAgrees) : t.Inv := by
  obtain ⟨memory, low, -⟩ := hs
  exact ⟨hm ▸ memory, fun a ha => hm ▸ low a ha, latch⟩

/-- A change of the engine between states other than `Halted`. -/
theorem State.Inv.setEngine (hs : s.Inv) (hne : s.engine ≠ .halted) {e : EngineState} (he : e ≠ .halted) :
    (s.setEngine e).Inv :=
  hs.of_mem_eq rfl ⟨fun _ => he, fun _ => hs.latch.mpr hne⟩

theorem State.Inv.halt (hs : s.Inv) (e : FatalError) : (s.halt e).Inv :=
  hs.of_mem_eq rfl ⟨fun none => (Option.some_ne_none e none).elim, fun running => (running rfl).elim⟩

theorem State.Inv.exec (hs : s.Inv) (hne : s.engine ≠ .halted) (h : exec i s = .next t) : t.Inv := by
  obtain ⟨memory, low⟩ := exec_memory h hs.memory
  refine ⟨memory, fun a ha => (low a ha).trans (hs.low a ha), ?_⟩
  rcases engine_cases h with ⟨engine, -, err⟩ | ⟨x, -, rfl⟩ | ⟨e, -, rfl⟩
  · rw [State.latchAgrees, engine, err]
    exact hs.latch
  · exact ⟨fun _ => by simp, fun _ => hs.latch.mpr hne⟩
  · exact (hs.halt e).latch

theorem State.Inv.pollKey (hs : s.Inv) (hw : s.engine = .waitingForKey) : (pollKey s).Inv := by
  rcases pollKey_cases s with ⟨-, h⟩ | ⟨k, -, h⟩
  · rwa [h]
  · rw [h]
    exact hs.of_mem_eq rfl ⟨fun _ => by simp, fun _ => hs.latch.mpr (by simp [hw])⟩

theorem State.Inv.stepEvent (hs : s.Inv) (h : stepEvent s = .next t) : t.Inv := by
  rcases stepEvent_cases s with ⟨-, e, -, g⟩ | ⟨hr, w, -, g⟩ | ⟨hw, g⟩ | ⟨-, g⟩
  · cases g.symm.trans h; exact hs.halt e
  · exact hs.exec (by simp [hr]) (g.symm.trans h)
  · cases g.symm.trans h; exact hs.pollKey hw
  · cases g.symm.trans h; exact hs

theorem State.Inv.singleStepEvent (hs : s.Inv) (h : singleStepEvent s = .next t) : t.Inv := by
  rcases singleStepEvent_cases s with ⟨-, g⟩ | ⟨hp, g⟩
  · cases g.symm.trans h; exact hs
  · have running : (s.setEngine .running).Inv := hs.setEngine (by simp [hp]) (by decide)
    rcases subSteps_ends (fun _ _ inv _ step => inv.stepEvent step) running (by simp) (g.symm.trans h) with
      ⟨-, inv⟩ | ⟨u, inv, hne, rfl⟩
    · exact inv
    · exact inv.setEngine hne (by decide)

/-- A load starts at 0x200. -/
theorem State.Inv.loadEvent (hs : s.Inv) (bytes : List Byte) : (loadEvent bytes s).Inv := by
  by_cases fits : bytes.length ≤ 3584
  · rw [loadEvent_of_le fits]
    exact ⟨Memory.wf_writeBytes bytes hs.memory (Nat.add_le_add_left fits 0x200),
      fun a ha => (Memory.read_writeBytes_outside bytes s.mem (.inl ha)).trans (hs.low a ha), hs.latch⟩
  · rwa [loadEvent_of_gt (Nat.lt_of_not_le fits)]

/-- `Reset` writes the font below 0x200, which is what was there after construction. -/
theorem State.Inv.applyReset (hs : s.Inv) : s.applyReset.Inv := by
  obtain ⟨memory, font, outside⟩ := applyReset_memory hs.memory
  refine ⟨memory, fun a ha => ?_, ⟨fun _ => by simp, fun _ => rfl⟩⟩
  by_cases inside : Config.fontBase ≤ a ∧ a - Config.fontBase < Config.fontData.length
  · obtain ⟨above, below⟩ := inside
    obtain ⟨k, rfl⟩ := Nat.exists_eq_add_of_le above
    rw [Nat.add_sub_cancel_left] at below
    rw [font k below, resetByte_font k below]
  · exact (outside a (by omega)).trans (hs.low a ha)

theorem constructEvent_inv (mode : Mode) (cpt : PNat) (now : Rat) (s : State) :
    (constructEvent mode cpt now s).Inv where
  memory := by rw [constructEvent, State.applyReset_mem, font_over_zeros]; exact Memory.wf_nil
  low a _ := read_constructEvent_mem mode cpt now s a
  latch := ⟨fun _ => by simp [constructEvent], fun _ => rfl⟩

theorem State.Inv.applyEvent {e : Event} (hs : s.Inv) (h : applyEvent e s = .next t) : t.Inv := by
  cases e with
  | step => exact hs.stepEvent h
  | singleStep => exact hs.singleStepEvent h
  | construct mode cpt now => cases h; exact constructEvent_inv mode cpt now s
  | reset => cases h; exact hs.applyReset
  | load bytes => cases h; exact hs.loadEvent bytes
  | pause =>
    cases h
    rcases pauseEvent_cases s with ⟨-, g⟩ | ⟨hr, g⟩ <;> rw [g]
    · exact hs
    · exact hs.setEngine (by simp [hr]) (by decide)
  | resume =>
    cases h
    rcases resumeEvent_cases s with ⟨-, g⟩ | ⟨hp, g⟩ <;> rw [g]
    · exact hs
    · exact hs.setEngine (by simp [hp]) (by decide)
  | tickIfDue now =>
    cases h
    by_cases due : now - s.last ≥ 1 / 60
    · rw [tickIfDueEvent_of_due due]
      exact hs.of_mem_eq rfl hs.latch
    · rwa [tickIfDueEvent_of_not_due (not_le.mp due)]
  | tick | keyWrite => cases h; exact hs.of_mem_eq rfl hs.latch
  | dumpState => cases h; exact hs

end

/-- Settles O47: taking an event off the schedule keeps the invariant, and so does each event. -/
theorem everyStepKeepsTheInvariant : Obligations.EveryStepKeepsTheInvariant := by
  intro s t hs h
  have taken : (takeInput s).Inv := hs.of_mem_eq rfl hs.latch
  exact taken.applyEvent h

/-- Settles O48: no byte is listed, and no error is latched in a running engine. -/
theorem resetMeetsTheInvariant : Obligations.ResetMeetsTheInvariant :=
  ⟨Memory.wf_nil, fun _ _ => rfl, ⟨fun _ => by decide, fun _ => rfl⟩⟩

end Sys2Proof.Machine
end

section
/-! PROOFS of the family other, the execution cycle: which event a step applies, what `SingleStep` runs, the engine's
transitions, the configuration, the reports, and the code that stays even (spec/10_state.md sections 8 and 10,
spec/20_memory.md sections 1 and 4, spec/40_execution_cycle.md, spec/70_reset_and_hazards.md section 1). -/

namespace Sys2Proof.Machine

/-! ### The event of a step (20_memory.md section 4, 40_execution_cycle.md section 1) -/

section
variable {s t : State} {e : Event}

theorem applyEvent_completes (e : Event) (s : State) : ∃ t, applyEvent e s = .next t := by
  cases e with
  | step => exact stepEvent_completes s
  | singleStep =>
    rcases singleStepEvent_cases s with ⟨-, h⟩ | ⟨-, h⟩
    · exact ⟨s, h⟩
    · obtain ⟨t, ht⟩ := subSteps_completes 4 (s.setEngine .running)
      exact ⟨t, h.trans ht⟩
  | _ => exact ⟨_, rfl⟩

theorem step_of_cons {es : List Event} (h : s.inputs = e :: es) : step s = applyEvent e { s with inputs := es } := by
  rw [step, nextEvent, takeInput, h, List.headD_cons, List.tail_cons]

theorem step_of_nil (h : s.inputs = []) : step s = stepEvent s := by
  have same : { s with inputs := [] } = s := h ▸ rfl
  rw [step, nextEvent, takeInput, h, List.headD_nil, List.tail_nil, same, applyEvent]

/-- Settles O30: each event finishes, and a step is one of them, by the two shapes of the schedule. -/
theorem everyStepAppliesOneEvent : Obligations.EveryStepAppliesOneEvent :=
  ⟨fun s => applyEvent_completes (nextEvent s) (takeInput s), fun _ _ _ => step_of_cons, fun _ => step_of_nil⟩

theorem stepEvent_of_decode {i : Instr} (hr : s.engine = .running) (hpc : s.pc.toNat ≤ 0xFFE)
    (hd : decode [Memory.read s.mem s.pc.toNat, Memory.read s.mem (s.pc.toNat + 1)] = .ok (i, [])) :
    stepEvent s = exec i s := by
  have decodes : decodeWord (wordOfBytes (Memory.read s.mem s.pc.toNat) (Memory.read s.mem (s.pc.toNat + 1))) = i :=
    congrArg Prod.fst (Except.ok.inj hd)
  rw [stepEvent_of_fetch hr (State.fetch_of_le hpc), decodes]

/-- Settles O29: the `Step` fetches the two bytes, and it is the event of the step. -/
theorem stepRunsTheDecodedInstruction : Obligations.StepRunsTheDecodedInstruction := by
  intro s i hr hpc hd
  have runs := stepEvent_of_decode hr hpc hd
  exact ⟨runs, fun nil => (step_of_nil nil).trans runs,
    fun es cons => (step_of_cons cons).trans (stepEvent_of_decode (s := { s with inputs := es }) hr hpc hd)⟩

/-- Settles O32: the fetch fails, and its fault is the error of the halted engine and of the report. -/
theorem fetchAboveTheTopHalts : Obligations.FetchAboveTheTopHalts := by
  intro s hr hpc
  have fails := State.fetch_of_gt hpc
  exact ⟨_, stepEvent_of_fetch_error hr fails, haltedWith_halt s _, stepReport_of_fetch_error hr fails⟩

/-! ### The word placed for the next step (log 10) -/

theorem tableWordBytes_toNat (w : Word) : tableWordBytes 16 w.toNat = bytesOfWord w := by
  rw [tableWordBytes, Nat.mod_eq_of_lt w.isLt, BitVec.ofNat_toNat, BitVec.setWidth_eq]

/-- A fetch takes the two bytes that were written at the program counter. -/
theorem State.fetch_of_written {m : Memory} {w : Word} (hm : Memory.wf m) (hpc : s.pc.toNat ≤ 0xFFE)
    (hs : s.mem = Memory.writeBytes m s.pc.toNat (bytesOfWord w)) : s.fetch = .ok w := by
  have fits : s.pc.toNat + (bytesOfWord w).length ≤ Config.memSize := Nat.add_le_add_right hpc 2
  have hi := Memory.read_writeBytes_inside (bytesOfWord w) hm fits 0 Nat.two_pos
  have lo := Memory.read_writeBytes_inside (bytesOfWord w) hm fits 1 Nat.one_lt_two
  rw [Nat.add_zero] at hi
  rw [State.fetch_of_le hpc, hs, hi, lo]
  exact congrArg Except.ok (wordOfBytes_halves w)

theorem toNat_placed_pc_le (pc : Word) : (if pc.toNat > 0xFFE then 0x200 else pc).toNat ≤ 0xFFE := by
  split
  · decide
  · omega

/-- Settles O31: the placed state runs with no event before the `Step`, which fetches the placed word. -/
theorem placedWordRunsNext : Obligations.PlacedWordRunsNext := by
  intro s w hm
  have fetched : (s.withFetchWord 16 w.toNat).fetch = .ok w :=
    State.fetch_of_written hm (toNat_placed_pc_le s.pc) (by rw [← tableWordBytes_toNat]; rfl)
  rw [step_of_nil rfl, stepEvent_of_fetch rfl fetched]

end

/-! ### SingleStep (40_execution_cycle.md R132) -/

/-- Up to `n` sub-steps of a `SingleStep` go from one state to another with a list of reports. -/
def SubRun (n : Nat) (s t : State) (rs : List Report) : Prop := subSteps n s = .next t ∧ subStepReports n s = rs

section
variable {s t u : State} {n : Nat} {rs : List Report}

theorem SubRun.done (s : State) : SubRun 0 s (s.setEngine .paused) [] := ⟨rfl, rfl⟩

theorem SubRun.stop (h : stepEvent s = .next t) (ht : t.engine = .halted) : SubRun (n + 1) s t [stepReport s] :=
  ⟨subSteps_succ_of_halted h ht, subStepReports_succ_of_halted h ht⟩

theorem SubRun.go (h : stepEvent s = .next t) (ht : t.engine ≠ .halted) (run : SubRun n t u rs) :
    SubRun (n + 1) s u (stepReport s :: rs) :=
  ⟨(subSteps_succ_of_ne h ht).trans run.1, (subStepReports_succ_of_ne h ht).trans (congrArg _ run.2)⟩

theorem singleStep_of_subRun (hp : s.engine = .paused) (run : SubRun 4 (s.setEngine .running) t rs) :
    applyEvent .singleStep s = .next t ∧ singleStepReports s = rs :=
  ⟨(singleStepEvent_of_paused hp).trans run.1, (singleStepReports_of_paused hp).trans run.2⟩

/-- Settles O36: after each sub-step the engine has halted, or the next one follows. -/
theorem singleStepRunsFourSteps : Obligations.SingleStepRunsFourSteps := by
  refine fun s => ⟨fun hne => ⟨singleStepEvent_of_ne hne, singleStepReports_of_ne hne⟩, fun hp s1 h1 => ?_⟩
  refine ⟨fun stop1 => singleStep_of_subRun hp (.stop h1 stop1), fun go1 s2 h2 => ?_⟩
  refine ⟨fun stop2 => singleStep_of_subRun hp (.go h1 go1 (.stop h2 stop2)), fun go2 s3 h3 => ?_⟩
  refine ⟨fun stop3 => singleStep_of_subRun hp (.go h1 go1 (.go h2 go2 (.stop h3 stop3))), fun go3 s4 h4 => ?_⟩
  have stopped (stop4 : s4.engine = .halted) :=
    singleStep_of_subRun hp (.go h1 go1 (.go h2 go2 (.go h3 go3 (.stop h4 stop4))))
  have paused (go4 : s4.engine ≠ .halted) :=
    singleStep_of_subRun hp (.go h1 go1 (.go h2 go2 (.go h3 go3 (.go h4 go4 (.done s4)))))
  refine ⟨?_, fun stop4 => (stopped stop4).1, fun go4 => (paused go4).1⟩
  by_cases halts : s4.engine = .halted
  · exact (stopped halts).2
  · exact (paused halts).2

end

/-! ### The transition table (40_execution_cycle.md R133) -/

section
variable {s t : State}

/-- A `Step` in `Running` (R121). -/
theorem stepEvent_running (hr : s.engine = .running) (h : stepEvent s = .next t) :
    (∃ err, s.fetch = .error err ∧ t.engine = .halted ∧ t.err = some err) ∨
    (∃ w, s.fetch = .ok w ∧
      ((t.engine = .halted ∧ t.err ≠ none) ∨ (t.engine = .waitingForKey ∧ ∃ x, decodeWord w = .ldVxK x) ∨
        (t.engine = .running ∧ ∀ x, decodeWord w ≠ .ldVxK x))) := by
  cases hf : s.fetch with
  | error e =>
    cases (stepEvent_of_fetch_error hr hf).symm.trans h
    exact .inl ⟨e, rfl, rfl, rfl⟩
  | ok w =>
    refine .inr ⟨w, rfl, ?_⟩
    obtain ⟨u, executes, after⟩ := exec_cases (decodeWord w) s
    cases (((stepEvent_of_fetch hr hf).trans executes).symm.trans h)
    rcases after with ⟨e, rfl⟩ | ⟨-, ⟨x, wait, waits⟩ | ⟨keeps, other⟩⟩
    · exact .inl ⟨rfl, Option.some_ne_none e⟩
    · exact .inr (.inl ⟨waits, x, wait⟩)
    · exact .inr (.inr ⟨keeps.trans hr, other⟩)

/-- The poll ends the wait when a key is pressed (R127). -/
theorem pollKey_engine (hw : s.engine = .waitingForKey) :
    (pollKey s).engine = if s.keys = 0 then .waitingForKey else .running := by
  rcases pollKey_cases s with ⟨none, h⟩ | ⟨k, found, h⟩ <;> rw [h]
  · rw [if_pos ((leastKey_eq_none s.keys).mp none), hw]
  · have pressed : s.keys ≠ 0 := fun zero => by simp [(leastKey_eq_none s.keys).mpr zero] at found
    rw [if_neg pressed, State.setEngine_engine]

/-- A `Step` that halts the engine latches an error. -/
theorem stepEvent_err_ne_none (hne : s.engine ≠ .halted) (h : stepEvent s = .next t) (ht : t.engine = .halted) :
    t.err ≠ none := by
  cases hs : s.engine with
  | running =>
    rcases stepEvent_running hs h with ⟨e, -, -, err⟩ | ⟨w, -, ⟨-, err⟩ | ⟨wait, -⟩ | ⟨run, -⟩⟩
    · exact err ▸ Option.some_ne_none e
    · exact err
    · cases ht.symm.trans wait
    · cases ht.symm.trans run
  | waitingForKey =>
    cases (stepEvent_of_waiting hs).symm.trans h
    rw [pollKey_engine hs] at ht
    split at ht <;> cases ht
  | paused =>
    cases (stepEvent_of_paused hs).symm.trans h
    exact absurd ht hne
  | halted => exact absurd hs hne

theorem singleStepEvent_engine (h : singleStepEvent s = .next t) :
    if s.engine = .paused then t.engine = .paused ∨ (t.engine = .halted ∧ t.err ≠ none) else t.engine = s.engine := by
  rcases singleStepEvent_cases s with ⟨hne, g⟩ | ⟨hp, g⟩
  · cases g.symm.trans h
    rw [if_neg hne]
  · rw [if_pos hp]
    rcases subSteps_ends (P := fun u => u.engine = .halted → u.err ≠ none)
        (fun _ _ _ hne step => stepEvent_err_ne_none hne step) (by simp) (by simp) (g.symm.trans h) with
      ⟨halts, err⟩ | ⟨u, -, -, rfl⟩
    · exact .inr ⟨halts, err halts⟩
    · exact .inl rfl

theorem loadEvent_cases (bytes : List Byte) (s : State) :
    loadEvent bytes s = s ∨ ∃ m, loadEvent bytes s = s.setMem m := by
  by_cases fits : bytes.length ≤ 3584
  · exact .inr ⟨_, loadEvent_of_le fits⟩
  · exact .inl (loadEvent_of_gt (Nat.lt_of_not_le fits))

theorem tickIfDueEvent_cases (now : Rat) (s : State) :
    tickIfDueEvent now s = s ∨ tickIfDueEvent now s = (tickEvent s).setLast now := by
  by_cases due : now - s.last ≥ 1 / 60
  · exact .inr (tickIfDueEvent_of_due due)
  · exact .inl (tickIfDueEvent_of_not_due (not_le.mp due))

/-- Settles O37: the rows of the table, one for each event, and for `Step` one for each state. -/
theorem engineTransitionTable : Obligations.EngineTransitionTable := by
  intro e s t h
  cases e with
  | step =>
    cases hs : s.engine with
    | running => exact stepEvent_running hs h
    | waitingForKey =>
      cases (stepEvent_of_waiting hs).symm.trans h
      exact pollKey_engine hs
    | paused => cases (stepEvent_of_paused hs).symm.trans h; exact hs
    | halted => cases (stepEvent_of_halted hs).symm.trans h; exact hs
  | pause =>
    cases h
    rcases pauseEvent_cases s with ⟨hne, g⟩ | ⟨hr, g⟩ <;> simp only [g]
    · rw [if_neg hne]
    · rw [if_pos hr, State.setEngine_engine]
  | resume =>
    cases h
    rcases resumeEvent_cases s with ⟨hne, g⟩ | ⟨hp, g⟩ <;> simp only [g]
    · rw [if_neg hne]
    · rw [if_pos hp, State.setEngine_engine]
  | singleStep => exact singleStepEvent_engine h
  | construct | reset => cases h; rfl
  | load bytes =>
    cases h
    rcases loadEvent_cases bytes s with g | ⟨m, g⟩ <;> exact (congrArg State.engine g).trans rfl
  | tickIfDue now =>
    cases h
    rcases tickIfDueEvent_cases now s with g | g <;> exact (congrArg State.engine g).trans rfl
  | tick | keyWrite | dumpState => cases h; rfl

/-! ### Reset (70_reset_and_hazards.md R291, 10_state.md R34) -/

/-- An event other than `Reset` and `Construct` leaves a halted engine halted. -/
theorem reset_or_construct_of_leaves_halted {e : Event} (hs : s.engine = .halted) (h : applyEvent e s = .next t)
    (ht : t.engine ≠ .halted) : e = .reset ∨ ∃ mode cpt now, e = .construct mode cpt now := by
  have row := engineTransitionTable e s t h
  cases e with
  | reset => exact .inl rfl
  | construct mode cpt now => exact .inr ⟨mode, cpt, now, rfl⟩
  | _ => simp [hs, ht] at row

/-- Settles O43: the transition table in `Halted`, and each part of the state that `Reset` leaves. -/
theorem resetReinitialises : Obligations.ResetReinitialises := by
  refine ⟨fun e s t => reset_or_construct_of_leaves_halted, fun s hm => ?_⟩
  obtain ⟨-, font, outside⟩ := applyReset_memory hm
  rw [length_fontData] at outside
  refine ⟨s.applyReset, rfl, State.getV_applyReset s, rfl, rfl, rfl, State.stackAt_applyReset s,
    fun i hi => ?_, outside, pixel_applyReset s, rfl, rfl, rfl, rfl, rfl, ⟨rfl, rfl, rfl, rfl, rfl⟩, rfl⟩
  have inside : i < Config.fontData.length := length_fontData ▸ hi
  exact (font i inside).trans (List.getD_eq_getElem _ 0 inside).symm

/-! ### The configuration (10_state.md section 8) -/

/-- A `Step` writes neither the latch nor the mode, the configuration or the Timer Clock's time. -/
theorem stepEvent_sameOutside (h : stepEvent s = .next t) : SameOutside s t := by
  rcases stepEvent_cases s with ⟨-, e, -, g⟩ | ⟨-, w, -, g⟩ | ⟨-, g⟩ | ⟨-, g⟩
  · cases g.symm.trans h; exact sameOutside_halt s e
  · exact exec_sameOutside (g.symm.trans h)
  · cases g.symm.trans h
    rcases pollKey_cases s with ⟨-, p⟩ | ⟨k, -, p⟩ <;> rw [p]
    · exact (Unchanged.refl s).1
    · exact (unchanged_setV_advance_setEngine s _ _ _).1
  · cases g.symm.trans h; exact (Unchanged.refl s).1

theorem singleStepEvent_sameOutside (h : singleStepEvent s = .next t) : SameOutside s t := by
  rcases singleStepEvent_cases s with ⟨-, g⟩ | ⟨-, g⟩
  · cases g.symm.trans h; exact (Unchanged.refl s).1
  · have start : SameOutside s (s.setEngine .running) := (unchanged_setEngine s _).1
    rcases subSteps_ends (P := SameOutside s) (fun _ _ same _ step => same.trans (stepEvent_sameOutside step))
        start (by simp) (g.symm.trans h) with ⟨-, same⟩ | ⟨u, same, -, rfl⟩
    · exact same
    · exact same.trans (unchanged_setEngine u _).1

/-- What an event other than `Construct` leaves of the configuration. -/
def ConfigurationKept (e : Event) (s t : State) : Prop :=
  t.mode = s.mode ∧ t.cpt = s.cpt ∧ (t.keys = s.keys ∨ ∃ k, e = .keyWrite k) ∧
    (t.last = s.last ∨ ∃ now, e = .tickIfDue now)

theorem SameOutside.configurationKept (h : SameOutside s t) (e : Event) : ConfigurationKept e s t := by
  obtain ⟨keys, mode, cpt, last, -⟩ := h
  exact ⟨mode, cpt, .inl keys, .inl last⟩

theorem applyEvent_configuration {e : Event} (h : applyEvent e s = .next t) :
    (∃ m c n, e = .construct m c n) ∨ ConfigurationKept e s t := by
  cases e with
  | construct m c n => exact .inl ⟨m, c, n, rfl⟩
  | step => exact .inr ((stepEvent_sameOutside h).configurationKept _)
  | singleStep => exact .inr ((singleStepEvent_sameOutside h).configurationKept _)
  | keyWrite k => cases h; exact .inr ⟨rfl, rfl, .inr ⟨k, rfl⟩, .inl rfl⟩
  | tickIfDue now =>
    cases h
    rcases tickIfDueEvent_cases now s with g | g <;> rw [g] <;> exact .inr ⟨rfl, rfl, .inl rfl, .inr ⟨now, rfl⟩⟩
  | load bytes =>
    cases h
    rcases loadEvent_cases bytes s with g | ⟨m, g⟩ <;> rw [g]
    · exact .inr ((Unchanged.refl s).1.configurationKept _)
    · exact .inr ((unchanged_setMem s m).1.configurationKept _)
  | pause =>
    cases h
    rcases pauseEvent_cases s with ⟨-, g⟩ | ⟨-, g⟩ <;> rw [g]
    · exact .inr ((Unchanged.refl s).1.configurationKept _)
    · exact .inr ((unchanged_setEngine s _).1.configurationKept _)
  | resume =>
    cases h
    rcases resumeEvent_cases s with ⟨-, g⟩ | ⟨-, g⟩ <;> rw [g]
    · exact .inr ((Unchanged.refl s).1.configurationKept _)
    · exact .inr ((unchanged_setEngine s _).1.configurationKept _)
  | reset | tick | dumpState => cases h; exact .inr ⟨rfl, rfl, .inl rfl, .inl rfl⟩

/-- Settles O50: what the event of the step can change; taking it off the schedule changes none of it. -/
theorem onlyEventsChangeTheConfiguration : Obligations.OnlyEventsChangeTheConfiguration := by
  intro s t h
  rcases applyEvent_configuration h with construct | ⟨mode, cpt, keys, last⟩
  · exact ⟨fun _ => construct, fun _ => .inr construct, fun _ => .inr construct⟩
  · exact ⟨fun changed => (changed.elim (· mode) (· cpt)).elim, fun changed => .inl (keys.resolve_left changed),
      fun changed => .inl (last.resolve_left changed)⟩

/-! ### What a `Step` does not read (10_state.md section 8) -/

/-- Settles O53: a `Step` is a failed fetch, an execution or no change, and a fetch does not read the latch. -/
theorem latchIsReadOnlyByKeyTestsAndPoll : Obligations.LatchIsReadOnlyByKeyTestsAndPoll := by
  refine ⟨fun i s t k => exec_with_keys k, fun s t k hwait hkeys h => ?_⟩
  rcases stepEvent_cases s with ⟨hr, e, hf, g⟩ | ⟨hr, w, hf, g⟩ | ⟨hw, -⟩ | ⟨hp | hh, g⟩
  · cases g.symm.trans h
    exact stepEvent_of_fetch_error (s := { s with keys := k }) hr hf
  · exact (stepEvent_of_fetch (s := { s with keys := k }) hr hf).trans
      (exec_with_keys k (hkeys hr w hf) (g.symm.trans h))
  · exact absurd hw hwait
  · cases g.symm.trans h
    exact stepEvent_of_paused (s := { s with keys := k }) hp
  · cases g.symm.trans h
    exact stepEvent_of_halted (s := { s with keys := k }) hh

end

/-! ### The step report (10_state.md R44) -/

section
variable {s t : State} {w : Word} {i : Instr}

theorem executionReport_word_op (w : Word) (i : Instr) (t : State) :
    (executionReport w i t).word = some w ∧ (executionReport w i t).op = some i := by
  rw [executionReport]
  cases t.engine <;> exact ⟨rfl, rfl⟩

theorem executionReport_of_halted (w : Word) (i : Instr) (h : t.engine = .halted) :
    executionReport w i t = ⟨.faulted, some w, some i, none, t.err.map .fatal⟩ := by
  simp only [executionReport, h]

theorem executionReport_of_waiting (w : Word) (i : Instr) (h : t.engine = .waitingForKey) :
    executionReport w i t = ⟨.waiting, some w, some i, effectOf i, errorOf i⟩ := by
  simp only [executionReport, h]

theorem effectOf_eq_displayChanged : effectOf i = some .displayChanged ↔ i = .cls ∨ ∃ x y n, i = .drw x y n := by
  cases i <;> simp [effectOf]

theorem effectOf_eq_delayTimerSet : effectOf i = some .delayTimerSet ↔ ∃ x, i = .ldDtVx x := by
  cases i <;> simp [effectOf]

theorem effectOf_eq_soundTimerSet : effectOf i = some .soundTimerSet ↔ ∃ x, i = .ldStVx x := by
  cases i <;> simp [effectOf]

theorem errorOf_eq_none (h : ∀ v, i ≠ .unknown v) : errorOf i = none := by
  cases i with
  | unknown v => exact absurd rfl (h v)
  | _ => rfl

/-- The error of a completed instruction is the unknown word it was fetched as. -/
theorem errorOf_decodeWord (w : Word) :
    errorOf (decodeWord w) = if decodeWord w = .unknown w then some (.unknownOpcode w) else none := by
  split
  · next h => rw [h, errorOf]
  · next h => exact errorOf_eq_none fun v hv => h (eq_of_decodeWord_eq_unknown hv ▸ hv)

/-- An instruction that leaves a running engine waiting is FX0A. -/
theorem eq_ldVxK_of_waiting (hr : s.engine = .running) (h : exec i s = .next t) (ht : t.engine = .waitingForKey) :
    ∃ x, i = .ldVxK x := by
  rcases engine_cases h with ⟨same, -⟩ | ⟨x, hi, -⟩ | ⟨e, -, rfl⟩
  · cases ht.symm.trans (same.trans hr)
  · exact ⟨x, hi⟩
  · cases ht

/-- Settles O54: the report of each state, and of an execution by the state it leaves. -/
theorem stepReportFields : Obligations.StepReportFields := by
  intro s
  refine ⟨stepReport_of_paused, stepReport_of_halted,
    fun hw h0 => stepReport_of_waiting_none hw ((leastKey_eq_none s.keys).mpr h0), fun hw h0 => ?_,
    fun hr e => stepReport_of_fetch_error hr, fun hr w t hf h => ?_⟩
  · obtain ⟨k, found⟩ := Option.ne_none_iff_exists'.mp (mt (leastKey_eq_none s.keys).mp h0)
    exact stepReport_of_waiting_some hw found
  · have executes : exec (decodeWord w) s = .next t := (stepEvent_of_fetch hr hf).symm.trans h
    obtain ⟨word, op⟩ := executionReport_word_op w (decodeWord w) t
    rw [stepReport_of_exec hr hf executes]
    refine ⟨word, op, fun ht => ?_, fun ht => ?_, fun ht => ?_⟩
    · rw [executionReport_of_halted w _ ht]
      exact ⟨rfl, rfl, rfl⟩
    · obtain ⟨x, hx⟩ := eq_ldVxK_of_waiting hr executes ht
      rw [executionReport_of_waiting w _ ht, hx]
      exact ⟨rfl, rfl, rfl⟩
    · rw [executionReport_of_running w _ ht]
      exact ⟨rfl, effectOf_eq_displayChanged, effectOf_eq_delayTimerSet, effectOf_eq_soundTimerSet,
        errorOf_decodeWord w⟩

end

/-! ### The code stays even (20_memory.md R61) -/

section
variable {s t : State} {i : Instr}

/-- The two skips' widths are even. -/
theorem add_even {pc : Word} (h : pc.toNat % 2 = 0) : (pc + 2).toNat % 2 = 0 ∧ (pc + 4).toNat % 2 = 0 := by
  constructor <;> bv_omega

/-- A change that leaves the stack alone and the program counter even. -/
theorem State.evenCode.of_stack (hs : s.evenCode) (same : Part.stack.same s t) (hpc : t.pc.toNat % 2 = 0) :
    t.evenCode := by
  obtain ⟨-, live⟩ := hs
  obtain ⟨sp, entries⟩ := same
  exact ⟨hpc, fun k hk => entries k ▸ live k (sp ▸ hk)⟩

theorem State.evenCode.push_jump (hs : s.evenCode) (room : s.sp.val < 16) {target : Word}
    (ht : target.toNat % 2 = 0) : ((s.push (s.pc + 2) room).jump target).evenCode := by
  obtain ⟨pc, live⟩ := hs
  refine ⟨ht, fun k hk => ?_⟩
  have below : k.val < s.sp.val + 1 := hk
  rw [State.stackAt_jump, State.stackAt_push]
  split
  · exact (add_even pc).1
  · exact live k (by omega)

theorem State.evenCode.drop_jump (hs : s.evenCode) (held : 0 < s.sp.val) :
    (s.drop.jump (s.stackAt (s.topIndex held))).evenCode := by
  obtain ⟨-, live⟩ := hs
  exact ⟨live _ (Nat.sub_lt held Nat.one_pos), fun k hk => live k (Nat.lt_of_lt_of_le hk (Nat.sub_le _ _))⟩

theorem State.evenCode.skipIf (hs : s.evenCode) (c : Bool) : (s.skipIf c).evenCode := by
  obtain ⟨two, four⟩ := add_even hs.1
  refine hs.of_stack ⟨rfl, fun _ => rfl⟩ ?_
  cases c with
  | false => exact two
  | true => exact four

theorem State.evenCode.halt (hs : s.evenCode) (e : FatalError) : (s.halt e).evenCode := hs

theorem even_zext12 {nnn : Addr12} (h : ¬ nnn.toNat % 2 = 1) : (zext12 nnn).toNat % 2 = 0 := by
  rw [toNat_zext12]
  omega

theorem State.evenCode.exec (hs : s.evenCode) (hr : s.engine = .running) (hi : ¬ jumpsToOdd i s)
    (h : exec i s = .next t) : t.evenCode := by
  cases i with
  | jp nnn =>
    cases h
    exact hs.of_stack ⟨rfl, fun _ => rfl⟩ (even_zext12 fun odd => hi (.inl ⟨nnn, .inl rfl, odd⟩))
  | jpV0 nnn =>
    cases h
    refine hs.of_stack ⟨rfl, fun _ => rfl⟩ ?_
    have even : ¬ (nnn.toNat + (s.getV 0).toNat) % 2 = 1 := fun odd => hi (.inr ⟨nnn, rfl, odd⟩)
    rw [State.jump_pc, BitVec.toNat_add, toNat_zext12, toNat_zext8]
    omega
  | call nnn =>
    by_cases room : s.sp.val < 16
    · cases (exec_call_of_lt nnn room).symm.trans h
      exact hs.push_jump room (even_zext12 fun odd => hi (.inl ⟨nnn, .inr rfl, odd⟩))
    · cases (exec_call_of_full nnn (by omega)).symm.trans h
      exact hs.halt _
  | ret =>
    by_cases held : 0 < s.sp.val
    · cases (exec_ret_of_held held).symm.trans h
      exact hs.drop_jump held
    · cases (exec_ret_of_empty (Nat.eq_zero_of_not_pos held)).symm.trans h
      exact hs.halt _
  | seImm | sneImm | seReg | sneReg | skp | sknp => cases h; exact hs.skipIf _
  | ldVxK => cases h; exact hs
  | _ =>
    rcases exec_halted_or_advances rfl h with halts | advances
    · obtain ⟨e, rfl⟩ := exec_halted_eq_halt (by simp [hr]) h halts
      exact hs.halt e
    · refine hs.of_stack (same_of_not_mem_writtenParts h (by simp [writtenParts]) (by decide)) ?_
      rw [advances]
      exact (add_even hs.1).1

/-- Settles O28: an execution keeps the code even, and the other `Step`s leave it or advance. -/
theorem codeStaysEven : Obligations.CodeStaysEven := by
  intro s t hs h hodd
  rcases stepEvent_cases s with ⟨-, e, -, g⟩ | ⟨hr, w, hf, g⟩ | ⟨-, g⟩ | ⟨-, g⟩
  · cases g.symm.trans h
    exact hs.halt e
  · exact hs.exec hr (hodd w hr hf) (g.symm.trans h)
  · cases g.symm.trans h
    rcases pollKey_cases s with ⟨-, p⟩ | ⟨k, -, p⟩ <;> rw [p]
    · exact hs
    · exact hs.of_stack ⟨rfl, fun _ => rfl⟩ (add_even hs.1).1
  · cases g.symm.trans h
    exact hs

end

end Sys2Proof.Machine
end

section
/-! PROOFS of the family other, operations and events: the random byte, a call and its return, a sprite drawn twice, the
range checks against the byte accesses, and the timers (spec/41_arithmetic_bitwise.md section 6, spec/42_control_flow.md
section 2, spec/44_display.md, spec/20_memory.md sections 2 and 4, spec/60_exceptions.md section 5). -/

namespace Sys2Proof.Machine

/-! ### Random (41_arithmetic_bitwise.md R164) -/

theorem exec_rnd (x : Nibble) (nn : Byte) (s : State) :
    exec (.rnd x nn) s = .next (s.drawInto (Config.rnd s.draws) x nn).countDraw := rfl

theorem getV_drawInto (s : State) (byte : Byte) (x : Nibble) (nn : Byte) :
    (s.drawInto byte x nn).getV x = byte &&& nn := State.getV_setV_same s x _

/-- Settles O6: the masked byte is a result alone, and the count of draws is the model's own. -/
theorem randomByteIsMasked : Obligations.RandomByteIsMasked := by
  refine fun x nn => ⟨(decodeWord_wordXNN 0xC rfl).trans (by simp [decodeSwitch]), fun s => ?_,
    fun s byte => ⟨getV_drawInto s byte x nn, frame_setV_advance s x _⟩⟩
  obtain ⟨others, frame, pc⟩ := frame_setV_advance s x (Config.rnd s.draws &&& nn)
  refine ⟨_, exec_rnd x nn s, getV_drawInto s _ x nn, fun i hi => ?_, rfl, others,
    frame.trans (unchanged_countDraw _), pc⟩
  rw [State.getV_countDraw, getV_drawInto, BitVec.getLsbD_and, hi, Bool.and_false]

/-! ### A call and its return (42_control_flow.md section 2) -/

/-- Settles O10: the entry that the call pushes is the one below the stack pointer that it leaves. -/
theorem returnComesBackAfterTheCall : Obligations.ReturnComesBackAfterTheCall := by
  intro nnn s room
  have top : ((s.push (s.pc + 2) room).jump (zext12 nnn)).sp.val = (⟨s.sp.val, room⟩ : Fin 16).val + 1 := rfl
  refine ⟨_, _, exec_call_of_lt nnn room, exec_ret_of_sp_eq_succ top, ?_, rfl, ?_⟩
  · rw [State.jump_pc, State.stackAt_jump, State.stackAt_push, if_pos rfl]
  · exact ((unchanged_push_jump s _ _ room).trans (unchanged_drop_jump _ _)).mono (by decide)

/-! ### A sprite drawn twice (44_display.md, corner cases of DXYN) -/

section
variable {s t : State} {x y n : Nibble}

/-- The state that DXYN leaves when its read check passes. -/
def State.afterDraw (s : State) (x y n : Nibble) : State :=
  ((s.setDisp (s.drawn x y n).disp).setV regF (flagByte (s.drawn x y n).hit)).advance

theorem exec_drw_of_fits (h : n = 0 ∨ s.baseAddr + n.toNat - 1 ≤ 0xFFF) :
    exec (.drw x y n) s = .next (s.afterDraw x y n) :=
  (exec_drw s x y n).trans (guarded_of_none (checkRead_eq_none.mpr fun rows => h.resolve_left (by bv_omega)))

theorem pixel_afterDraw (px : Fin 64) (py : Fin 32) : Display.pixel (s.afterDraw x y n).disp px py =
    (Display.pixel s.disp px py ^^ spriteBit s x y n px py) := pixel_drawn s x y n px py

theorem getV_afterDraw_flag : (s.afterDraw x y n).getV 0xF = flagByte (s.drawn x y n).hit :=
  State.getV_setV_same _ regF _

/-- The same sprite at the same place: a draw changes neither the index register nor memory, and of the registers only
VF. -/
theorem spriteBit_afterDraw (hx : x ≠ 0xF) (hy : y ≠ 0xF) (px : Fin 64) (py : Fin 32) :
    spriteBit (s.afterDraw x y n) x y n px py = spriteBit s x y n px py := by
  have vx : (s.afterDraw x y n).getV x = s.getV x := State.getV_setV_ne _ _ hx
  have vy : (s.afterDraw x y n).getV y = s.getV y := State.getV_setV_ne _ _ hy
  rw [spriteBit, spriteBit, vx, vy]
  rfl

/-- Settles O19: the second draw inverts the same pixels, so a pixel that the first one set is a hit of the second. -/
theorem drawingTwiceRestoresTheDisplay : Obligations.DrawingTwiceRestoresTheDisplay := by
  intro x y n s hx hy fits
  have restored (px : Fin 64) (py : Fin 32) :
      Display.pixel ((s.afterDraw x y n).afterDraw x y n).disp px py = Display.pixel s.disp px py := by
    rw [pixel_afterDraw, spriteBit_afterDraw hx hy, pixel_afterDraw, Bool.xor_assoc, Bool.xor_self, Bool.xor_false]
  refine ⟨s.afterDraw x y n, _, exec_drw_of_fits fits, exec_drw_of_fits fits, restored, fun ⟨px, py, clear, set⟩ => ?_⟩
  have hit : ((s.afterDraw x y n).drawn x y n).hit = true :=
    (hit_drawn_iff _ x y n).mpr ⟨px, py, set, (restored px py).trans clear⟩
  rw [getV_afterDraw_flag, hit, flagByte, if_pos rfl]

end

/-! ### The range checks and the byte accesses (20_memory.md sections 2 and 4, 43_memory_index.md R200) -/

section
variable {base len : Nat}

/-- A range that begins with a byte that can be stored fails where its rest fails. -/
theorem checkWrite_succ (hl : 0x200 ≤ base) (hu : base ≤ 0xFFF) :
    checkWrite base (len + 1) = checkWrite (base + 1) len := by
  by_cases above : base + 1 + len - 1 > 0xFFF
  · rw [checkWrite_of_gt hl (by omega), checkWrite_of_gt (by omega) above]
    congr 2
    omega
  · rw [checkWrite_eq_none.mpr ⟨hl, by omega⟩, checkWrite_eq_none.mpr ⟨by omega, by omega⟩]

/-- A range that begins with a byte that can be read fails where its rest fails. -/
theorem checkRead_succ (hu : base ≤ 0xFFF) : checkRead base (len + 1) = checkRead (base + 1) len := by
  by_cases fails : 0 < len ∧ base + 1 + len - 1 > 0xFFF
  · obtain ⟨nonempty, above⟩ := fails
    rw [checkRead_of_gt (Nat.succ_pos len) (by omega), checkRead_of_gt nonempty above]
    congr 2
    omega
  · rw [checkRead_eq_none.mpr fun _ => by omega, checkRead_eq_none.mpr fun _ => by omega]

end

/-- Settles O26: by induction on the bytes; the first one fails with the check's fault, or the check is that of the
others. -/
theorem writeCheckAgreesWithByteStores : Obligations.WriteCheckAgreesWithByteStores := by
  intro s base bytes
  induction bytes generalizing s base with
  | nil => exact fun empty => absurd rfl empty
  | cons b bs ih =>
    intro _
    rw [State.memWriteEach, List.length_cons]
    by_cases low : base < 0x200
    · rw [State.memWrite_of_lt b low, checkWrite_of_lt low]
    · by_cases high : base > 0xFFF
      · have start : max base 0x1000 = base := by omega
        rw [State.memWrite_of_gt b high, checkWrite_of_gt (by omega) (by omega), start]
      · rw [State.memWrite_of_range b (by omega) (by omega)]
        cases bs with
        | nil =>
          rw [checkWrite_eq_none.mpr ⟨by omega, by simp; omega⟩]
          rfl
        | cons c cs =>
          rw [checkWrite_succ (by omega) (by omega)]
          exact ih _ _ (by simp)

/-- Settles O27: by induction on the length, as for the store. -/
theorem readCheckAgreesWithByteReads : Obligations.ReadCheckAgreesWithByteReads := by
  intro s base len
  induction len generalizing base with
  | zero => rfl
  | succ len ih =>
    rw [State.memReadEach]
    by_cases high : base > 0xFFF
    · have start : max base 0x1000 = base := by omega
      rw [State.memRead_of_gt high, checkRead_of_gt (Nat.succ_pos len) (by omega), start]
    · rw [State.memRead_of_le (by omega), checkRead_succ (by omega)]
      dsimp only
      rw [ih]
      cases checkRead (base + 1) len <;> rfl

/-! ### The timer clock (60_exceptions.md R266) -/

/-- Settles O41: the two branches of the clock. -/
theorem tickIfDueDecrementsOnce : Obligations.TickIfDueDecrementsOnce :=
  fun s _ => ⟨fun due => ⟨tickEvent s, _, rfl, congrArg Host.Outcome.next (tickIfDueEvent_of_due due), rfl⟩,
    fun early => congrArg Host.Outcome.next (tickIfDueEvent_of_not_due early)⟩

/-- Calls within `n` sixtieths of a second after `last` decrement a timer at most `n` times: a call that is due leaves
at least one sixtieth less to the others. -/
theorem tickAll_decrements (times : List Rat) (s : State) (n : Nat)
    (within : ∀ now ∈ times, now ≤ s.last + n / 60) :
    s.dt.toNat ≤ (tickAll times s).dt.toNat + n ∧ s.st.toNat ≤ (tickAll times s).st.toNat + n := by
  induction times generalizing s n with
  | nil => exact ⟨Nat.le_add_right _ _, Nat.le_add_right _ _⟩
  | cons now times ih =>
    obtain ⟨first, rest⟩ := List.forall_mem_cons.mp within
    rw [tickAll]
    by_cases due : now - s.last ≥ 1 / 60
    · rw [tickIfDueEvent_of_due due]
      have dt : ((tickEvent s).setLast now).dt.toNat = s.dt.toNat - 1 := toNat_countDown s.dt
      have st : ((tickEvent s).setLast now).st.toNat = s.st.toNat - 1 := toNat_countDown s.st
      cases n with
      | zero =>
        rw [Nat.cast_zero, zero_div] at first
        linarith
      | succ n =>
        rw [Nat.cast_succ] at first rest
        obtain ⟨dtRest, stRest⟩ := ih ((tickEvent s).setLast now) n fun later h => by
          have late := rest later h
          change later ≤ now + n / 60
          linarith
        omega
    · rw [tickIfDueEvent_of_not_due (not_le.mp due)]
      exact ih s n rest

/-- Settles O42: a second is sixty sixtieths. -/
theorem atMostSixtyDecrementsInASecond : Obligations.AtMostSixtyDecrementsInASecond := by
  intro times s within
  refine tickAll_decrements times s 60 fun now h => ?_
  norm_num
  exact within now h

/-! ### The Input Latch (10_state.md section 8) -/

/-- Settles O46: the latch is the new word, and no other field is written. -/
theorem keyWriteReplacesTheLatch : Obligations.KeyWriteReplacesTheLatch :=
  fun s k16 => ⟨keyWriteEvent k16 s, rfl, fun _ _ => rfl, rfl⟩

end Sys2Proof.Machine
end
